-- ==== Sys2Proof/Word.lean ====
section
/-! DEFINITION. The word types of the LPM trie CAM (00_scope.md section 4, rules R5, R6, R8). -/

namespace Sys2Proof

/-- A 32-bit register word or command word (R27, R80). -/
abbrev Word := BitVec 32

/-- A 32-bit key; bit 31 is the first bit of every prefix (R8, R54). -/
abbrev Key := BitVec 32

/-- A byte lane of a register access (R53). -/
abbrev Byte := BitVec 8

/-- A route payload, `bits PAYLOAD_BITS` (R5). It is held in the widest legal payload, 2048 bits;
every bit at or above PAYLOAD_BITS is 0 (assumption 10). -/
abbrev Payload := BitVec 2048

end Sys2Proof
end

