-- ==== Sys2Proof/Syntax.lean ====
section
/-! DEFINITION. The commands of the LPM trie CAM: one constructor per row of spec/opcode_table.json
(rules R80, R81). Every command word carries the fields CIDR and TABLE; a command that does not use a
field ignores it (rule R82). -/

namespace Sys2Proof

/-- The ten commands (R81), each with its CIDR and TABLE fields (R88). -/
inductive Instr where
  /-- NOP, OP 0x0 (R175). -/
  | nop (cidr table : Nat)
  /-- ADD, OP 0x1 (R110). -/
  | add (cidr table : Nat)
  /-- LOOKUP, OP 0x2 (R115). -/
  | lookup (cidr table : Nat)
  /-- DELETE, OP 0x3 (R120). -/
  | delete (cidr table : Nat)
  /-- CLEANUP, OP 0x4 (R141). -/
  | cleanup (cidr table : Nat)
  /-- CLEAR, OP 0x5 (R150). -/
  | clear (cidr table : Nat)
  /-- ENUM_START, OP 0x6 (R156). -/
  | enumStart (cidr table : Nat)
  /-- ENUM_NEXT, OP 0x7 (R157). -/
  | enumNext (cidr table : Nat)
  /-- RELEASE, OP 0x8 (R170). -/
  | release (cidr table : Nat)
  /-- CREATE, OP 0x9 (R172). -/
  | create (cidr table : Nat)
  deriving DecidableEq, Repr

/-- What decoding answers for a word that is no command (R89). -/
inductive Illegal where
  /-- A reserved opcode, OP 0xA..0xF (R84). -/
  | badOp
  /-- A defined opcode with RSV0 or RSV1 not 0 (R83). -/
  | badCmd
  deriving DecidableEq, Repr

/-- The CIDR field of a command. -/
def Instr.cidr : Instr → Nat
  | .nop c _ => c
  | .add c _ => c
  | .lookup c _ => c
  | .delete c _ => c
  | .cleanup c _ => c
  | .clear c _ => c
  | .enumStart c _ => c
  | .enumNext c _ => c
  | .release c _ => c
  | .create c _ => c

/-- The TABLE field of a command. -/
def Instr.table : Instr → Nat
  | .nop _ t => t
  | .add _ t => t
  | .lookup _ t => t
  | .delete _ t => t
  | .cleanup _ t => t
  | .clear _ t => t
  | .enumStart _ t => t
  | .enumNext _ t => t
  | .release _ t => t
  | .create _ t => t

end Sys2Proof
end

