-- ==== Sys2Proof/WellFormed.lean ====
section
/-! DEFINITION. A command is well formed when its operands fit their fields (rules R80, R90). A CIDR of
33..63 and a TABLE at or above NUM_TABLES fit their fields: they decode, and the command completes with
an error (rules R85, R86). -/

namespace Sys2Proof

/-- CIDR fits 6 bits (R90: `cidr < 64`). -/
def Instr.cidrFits (i : Instr) : Bool := decide (i.cidr < 64)

/-- TABLE fits 8 bits (R90: `t < 256`). -/
def Instr.tableFits (i : Instr) : Bool := decide (i.table < 256)

/-- The operands the encoding of rule R80 admits. -/
def Instr.wellFormed (i : Instr) : Bool := i.cidrFits && i.tableFits

end Sys2Proof
end

