-- ==== Sys2Proof/Decode.lean ====
section
/-! DEFINITION. Decoding and encoding of the command word (30_encoding.md), the byte lanes of a word
(rule R53), and the host's `decodeTableWord`. -/

namespace Sys2Proof

/-- OP = CMD[3:0] (R80). -/
def opField (w : Word) : Nat := (w.extractLsb' 0 4).toNat

/-- CIDR = CMD[9:4], zero-extended (R80, R88). -/
def cidrField (w : Word) : Nat := (w.extractLsb' 4 6).toNat

/-- RSV0 = CMD[15:10] (R80). -/
def rsv0Field (w : Word) : Nat := (w.extractLsb' 10 6).toNat

/-- TABLE = CMD[23:16], zero-extended (R80, R88). -/
def tableField (w : Word) : Nat := (w.extractLsb' 16 8).toNat

/-- RSV1 = CMD[31:24] (R80). -/
def rsv1Field (w : Word) : Nat := (w.extractLsb' 24 8).toNat

/-- The command an OP value names (R81); OP 0xA..0xF names none (R84). -/
def commandOf (op cidr table : Nat) : Option Instr :=
  match op with
  | 0x0 => some (.nop cidr table)
  | 0x1 => some (.add cidr table)
  | 0x2 => some (.lookup cidr table)
  | 0x3 => some (.delete cidr table)
  | 0x4 => some (.cleanup cidr table)
  | 0x5 => some (.clear cidr table)
  | 0x6 => some (.enumStart cidr table)
  | 0x7 => some (.enumNext cidr table)
  | 0x8 => some (.release cidr table)
  | 0x9 => some (.create cidr table)
  | _ => none

/-- The decode function of R89, total over all command words: BAD_OP before BAD_CMD. -/
def decode (w : Word) : Except Illegal Instr :=
  match commandOf (opField w) (cidrField w) (tableField w) with
  | none => .error .badOp
  | some i => if rsv0Field w ≠ 0 ∨ rsv1Field w ≠ 0 then .error .badCmd else .ok i

/-- The OP value of a command (R81). -/
def Instr.opcode : Instr → Nat
  | .nop _ _ => 0x0
  | .add _ _ => 0x1
  | .lookup _ _ => 0x2
  | .delete _ _ => 0x3
  | .cleanup _ _ => 0x4
  | .clear _ _ => 0x5
  | .enumStart _ _ => 0x6
  | .enumNext _ _ => 0x7
  | .release _ _ => 0x8
  | .create _ _ => 0x9

/-- The encoder, field by field from the most significant end: TABLE, RSV0 = 0, CIDR, OP, zero-extended
over RSV1 = 0 (R80). -/
def encode (i : Instr) : Word :=
  (BitVec.ofNat 8 i.table ++ 0#6 ++ BitVec.ofNat 6 i.cidr ++ BitVec.ofNat 4 i.opcode).setWidth 32

/-- Byte lane b of a word carries bits [8b+7 : 8b] (R53). -/
def laneOf (w : Word) (b : Nat) : Byte := w.extractLsb' (8 * b) 8

/-- The four byte lanes of a word, lane 0 (the lowest byte address) first (R53). -/
def lanesOf (w : Word) : List Byte := [laneOf w 0, laneOf w 1, laneOf w 2, laneOf w 3]

/-- The word that four byte lanes carry, lane 0 first (R53); no other count of lanes is a word (R52). -/
def wordOfLanes : List Byte → Option Word
  | [b0, b1, b2, b3] => some ((b3 ++ b2 ++ b1 ++ b0).setWidth 32)
  | _ => none

/-- The command that the lanes of one command word name (R91: every command is exactly one word). -/
def decodeLanes (bs : List Byte) : Option Instr :=
  match wordOfLanes bs with
  | none => none
  | some w =>
    match decode w with
    | .error _ => none
    | .ok i => some i

/-- The host's question: the command the decoder reads from the bits `w`. A command is one 32-bit word
(R91), so a number of more than 32 bits is none. -/
def decodeTableWord (_nbits w : Nat) : Option Instr :=
  if w < 2 ^ 32 then decodeLanes (lanesOf (BitVec.ofNat 32 w)) else none

end Sys2Proof
end

