-- ==== Sys2Proof/Config.lean ====
section
/-! DEFINITION. The implementation parameters of rule R5 (00_scope.md), as plain data: a model takes
them as arguments (92_eei_decisions.md D2). NUM_TABLES is not a field: it is the number of table
records the state holds (rule R11). -/

namespace Sys2Proof

/-- PAYLOAD_BITS, CBLOCK_CAP, SBLOCK_CAP and BASE of rule R5. No step of the machine changes them. -/
structure Config where
  /-- PAYLOAD_BITS, 1..2048. -/
  payloadBits : Nat
  /-- CBLOCK_CAP, 0..2^32-1: the number of child blocks, shared by all tables. -/
  cblockCap : Nat
  /-- SBLOCK_CAP, 0..2^32-1: the number of slot blocks, shared by all tables. -/
  sblockCap : Nat
  /-- BASE: the host bus address of register offset 0x000. -/
  base : Nat
  deriving DecidableEq, Repr

/-- The legal ranges of rule R5. -/
def Config.legal (c : Config) : Bool :=
  decide (1 ≤ c.payloadBits) && decide (c.payloadBits ≤ 2048) &&
    decide (c.cblockCap < 2 ^ 32) && decide (c.sblockCap < 2 ^ 32)

/-- DESIGN CHOICE (assumption 1): the parameters of the machine that `State.reset` names, the
conventions of 95_test_vectors.md; the spec leaves them open. -/
def Config.vectors : Config :=
  { payloadBits := 32, cblockCap := 100, sblockCap := 100, base := 0 }

/-- DESIGN CHOICE (assumption 1): NUM_TABLES of the machine that `State.reset` names. -/
def Config.vectorsNumTables : Nat := 2

end Sys2Proof
end

