-- ==== Sys2Proof/Machine/State.lean ====
section
/-! DEFINITION. The state of the LPM trie CAM as plain data (10_state.md), its reset values (rule R41),
and the reasons a step can stop. -/

namespace Sys2Proof.Machine

/-- The slot part of a node: the slot occupancy mask `smask` (bit 15 hard-wired to 0, R17) and the
slot block of 15 payloads (R14). `smask` is held with the block because a node with a set smask bit
owns a slot block (R21); without a block smask reads 0 (assumption 4). -/
structure SlotBlock where
  smask : BitVec 16
  slots : Vector Payload 15
  deriving DecidableEq, Repr

/-- A node record (R14). `bare`: no child block, so cmask is 0 (R19, assumption 4). `full`: with a
child block of 8 node records kid[0..7] (R68) and the child occupancy mask `cmask`. -/
inductive Node where
  | bare (sblk : Option SlotBlock)
  | full (sblk : Option SlotBlock) (cmask : BitVec 8) (k0 k1 k2 k3 k4 k5 k6 k7 : Node)
  deriving DecidableEq, Repr

/-- The empty node: masks 0, no child block, no slot block (R14). -/
def Node.empty : Node := .bare none

/-- A table record (R11): created or released (R12), the dedicated root record (R13), and the
enumeration cursor (R24). -/
structure Table where
  live : Bool
  root : Node
  ecurValid : Bool
  ecurPos : Nat
  deriving DecidableEq, Repr

/-- A table after reset: created and empty, cursor invalid (R41). -/
def Table.fresh : Table := { live := true, root := .empty, ecurValid := false, ecurPos := 0 }

/-- The operand latch L of the command in flight (R40). -/
structure Latch where
  cmd : Word
  addr : Key
  payload : Payload
  deriving DecidableEq, Repr

/-- The error codes of rule R180. Codes 8..15 are never produced, so they have no constructor. -/
inductive ErrCode where
  | ok | badOp | badCmd | badTable | released | badCidr | enumInvalid | nomem
  deriving DecidableEq, Repr

/-- A host access on the bus (R10, R52): a byte address, a width in bytes and, for a write, the value
on the four lanes. -/
inductive Access where
  | read (address bytes : Nat)
  | write (address bytes : Nat) (value : Word)
  deriving DecidableEq, Repr

/-- What happens at the block next (R10, R63, R191, R210): a host access in bus order, the engine's
turn, or an assertion of the reset input (assumption 2). -/
inductive Event where
  | access (a : Access)
  | engine
  | reset
  deriving DecidableEq, Repr

/-- The state of the block, and the two fields of the model's own (`inputs`, `lastRead`). -/
structure State where
  /-- The parameters of R5; constant. -/
  cfg : Config
  /-- T[0..NUM_TABLES-1] (R11). -/
  tables : List Table
  /-- used_c: child blocks owned (R23, R66, R67). -/
  usedC : Nat
  /-- used_s: slot blocks owned (R23, R66, R67). -/
  usedS : Nat
  /-- CMD (R28). -/
  cmd : Word
  /-- The latch L; STATUS.BUSY is 1 iff it is present (R29, R40). -/
  latch : Option Latch
  /-- STATUS.DONE (R29). -/
  done : Bool
  /-- STATUS.RES (R29). -/
  res : Bool
  /-- STATUS.OVERRUN (R29, R62). -/
  overrun : Bool
  /-- STATUS.ERR (R29, R180). -/
  err : ErrCode
  /-- CTRL.IRQ_EN (R30). -/
  irqEn : Bool
  /-- ADDR (R31). -/
  addr : Key
  /-- PAYLOAD_IN, assembled (R32). -/
  payloadIn : Payload
  /-- RES_ADDR (R33). -/
  resAddr : Key
  /-- RES_CIDR[5:0] (R34). -/
  resCidr : BitVec 6
  /-- RES_PAYLOAD, assembled (R35). -/
  resPayload : Payload
  /-- The model's own: the events still to happen at the block, in order (assumption 2). -/
  inputs : List Event
  /-- The model's own: the word driven for the last host read, none before the first (assumption 3). -/
  lastRead : Option Word
  deriving DecidableEq, Repr

/-- Why the model stops with a fault. Neither is reachable from reset. -/
inductive Fault where
  /-- Raised by the meanings of all ten commands when no command is in flight (R40: then L does not
  exist). `step` never asks for it. Safe: the model stops where the spec has no command to complete
  (assumption 7). -/
  | noCommandInFlight
  /-- Raised by LOOKUP and ENUM_NEXT when they find one of the slots 7..14 occupied
  (93_implementation_defined.md section 1: the invariant of R20 is broken). Safe: unreachable from
  reset (assumption 6). -/
  | k3SlotOccupied
  deriving DecidableEq, Repr

/-- Why the model refuses a step. -/
inductive Refusal where
  /-- Raised by a command without a meaning; none is left. Safe. -/
  | notModelled (mnemonic : String)
  /-- Raised by `step` on a host access inside the window that is not an aligned 32-bit access
  (R52: the model refuses it). Safe (assumption 8). -/
  | nonWordAccess
  /-- Raised by `step` on a host access outside the 1 KiB window (93_implementation_defined.md
  section 2: outside the block; the platform decides). Safe (assumption 9). -/
  | outsideWindow
  deriving DecidableEq, Repr

/-- The reset values of R41 for a block with the given parameters and NUM_TABLES. -/
def State.resetWith (cfg : Config) (numTables : Nat) : State :=
  { cfg := cfg
    tables := List.replicate numTables Table.fresh
    usedC := 0
    usedS := 0
    cmd := 0
    latch := none
    done := false
    res := false
    overrun := false
    err := .ok
    irqEn := false
    addr := 0
    payloadIn := 0
    resAddr := 0
    resCidr := 0
    resPayload := 0
    inputs := []
    lastRead := none }

/-- The machine right after reset (R41), with the parameters of assumption 1. -/
def State.reset : State := State.resetWith Config.vectors Config.vectorsNumTables

end Sys2Proof.Machine
end

