-- ==== Sys2Proof/Machine/Operands.lean ====
section
/-! DEFINITION. The addressing functions of the trie-walk pipeline and the slot selector
(41_route_ops.md section 1), and the word layout of payloads (rules R32, R35, R55). -/

namespace Sys2Proof.Machine

/-- The group value of a key at depth d, d in 0..10 (R100): `a[31-3d : 29-3d]` for d ≤ 9, and the two
remaining low bits with a 0 below them for d = 10. -/
def group (a : Key) (d : Nat) : Fin 8 :=
  if d ≤ 9 then Fin.ofNat 8 (a.extractLsb' (29 - 3 * d) 3).toNat
  else Fin.ofNat 8 (a.extractLsb' 0 2 ++ 0#1).toNat

/-- slot(k, v) = (2^k - 1) + v (R101), for k ≤ 3 and v < 2^k, where it is at most 14. -/
def slotIndex (k v : Nat) : Fin 15 := Fin.ofNat 15 (2 ^ k - 1 + v)

/-- The 15 slots of a block in ascending order. -/
def allSlots : List (Fin 15) := [0, 1, 2, 3, 4, 5, 6, 7, 8, 9, 10, 11, 12, 13, 14]

/-- k(s) = floor(log2(s + 1)), by the table of R101. -/
def slotK (s : Fin 15) : Nat :=
  if s.val < 1 then 0 else if s.val < 3 then 1 else if s.val < 7 then 2 else 3

/-- v(s) = s + 1 - 2^k(s) (R101). -/
def slotV (s : Fin 15) : Nat := s.val + 1 - 2 ^ slotK s

/-- The boundary of a prefix (R102): the depth of the node that owns it and its slot there. -/
structure Boundary where
  depth : Nat
  k : Nat
  g : Fin 8
  v : Nat
  slot : Fin 15
  deriving DecidableEq, Repr

/-- boundary(a, c) of R102: D = c div 3, k = c mod 3, v = the top k bits of the group at depth D. -/
def boundary (a : Key) (c : Nat) : Boundary :=
  let k := c % 3
  let g := group a (c / 3)
  let v := g.val >>> (3 - k)
  { depth := c / 3, k := k, g := g, v := v, slot := slotIndex k v }

/-- The slots LOOKUP probes for group value g, most specific first (R115). -/
def probeOrder (g : Fin 8) : List (Fin 15) :=
  [slotIndex 3 g.val, slotIndex 2 (g.val >>> 1), slotIndex 1 (g.val >>> 2), slotIndex 0 0]

/-- A slot of the k = 3 row of R101 (slots 7..14), which no command writes (R20). -/
def isK3Slot (s : Fin 15) : Bool := decide (7 ≤ s.val)

/-- The address part of prefix(d, p, s) (R104). -/
def prefixAddr (d p : Nat) (s : Fin 15) : Key :=
  BitVec.ofNat 32 ((p <<< (32 - 3 * d)) ||| (slotV s <<< (32 - 3 * d - slotK s)))

/-- The length part of prefix(d, p, s) (R104). -/
def prefixLen (d : Nat) (s : Fin 15) : Nat := 3 * d + slotK s

/-- mask(a, c): the key with the bits below its first c cleared (R105). -/
def maskKey (a : Key) (c : Nat) : Key := if c = 0 then 0 else (a >>> (32 - c)) <<< (32 - c)

/-- PAYLOAD_WORDS = ceil(PAYLOAD_BITS / 32) (R5). -/
def payloadWords (cfg : Config) : Nat := (cfg.payloadBits + 31) / 32

/-- Word i of a payload: bits [32i+31 : 32i] (R32, R35, R55). -/
def payloadWord (p : Payload) (i : Nat) : Word := p.extractLsb' (32 * i) 32

/-- A payload with every bit at or above PAYLOAD_BITS read as 0 (R32, R35). -/
def trimPayload (bits : Nat) (p : Payload) : Payload := (p.setWidth bits).setWidth 2048

/-- A payload with word i replaced, the bits at or above PAYLOAD_BITS write-ignored (R32). -/
def setPayloadWord (bits : Nat) (p : Payload) (i : Nat) (v : Word) : Payload :=
  trimPayload bits
    ((p &&& ~~~((0xFFFFFFFF#2048) <<< (32 * i))) ||| ((v.setWidth 2048) <<< (32 * i)))

end Sys2Proof.Machine
end

