-- ==== Sys2Proof/Machine/Flags.lean ====
section
/-! DEFINITION. The STATUS word, its write-1-to-clear bits, and the interrupt output (rules R29, R180,
R190). -/

namespace Sys2Proof.Machine

/-- The ERR code of an error (R180). -/
def ErrCode.code : ErrCode → BitVec 4
  | .ok => 0
  | .badOp => 1
  | .badCmd => 2
  | .badTable => 3
  | .released => 4
  | .badCidr => 5
  | .enumInvalid => 6
  | .nomem => 7

/-- The error an illegal command word completes with (R83, R84). -/
def illegalErr : Illegal → ErrCode
  | .badOp => .badOp
  | .badCmd => .badCmd

/-- STATUS.BUSY: 1 from acceptance to completion, that is, while L exists (R29, R40). -/
def State.busy (s : State) : Bool := s.latch.isSome

/-- The STATUS word: BUSY, DONE, RES, OVERRUN in bits 0..3, ERR in bits 7:4, bits 31:8 zero (R29). -/
def State.statusWord (s : State) : Word :=
  (s.err.code ++ BitVec.ofBool s.overrun ++ BitVec.ofBool s.res ++ BitVec.ofBool s.done ++
    BitVec.ofBool s.busy).setWidth 32

/-- A host write of STATUS: a written 1 clears DONE (bit 1) or OVERRUN (bit 3); every other bit is
ignored (R29). Writing 1 to DONE is the host's acknowledgement of a completion, the only thing that
stands for a return here (R187). -/
def State.writeStatus (v : Word) (s : State) : State :=
  { s with done := s.done && !v.getLsbD 1, overrun := s.overrun && !v.getLsbD 3 }

/-- The interrupt output: level-sensitive, DONE and IRQ_EN (R190). -/
def State.irq (s : State) : Bool := s.done && s.irqEn

end Sys2Proof.Machine
end

