-- ==== Sys2Proof/Machine/Ops.lean ====
section
/-! DEFINITION. The named operations over node records, the block pools, the tables and the result
registers (rules R14 to R18, R60 to R68, R181). -/

namespace Sys2Proof.Machine

/-- cmask of a node; 0 without a child block (R14, R19). -/
def Node.cmask : Node → BitVec 8
  | .bare _ => 0
  | .full _ m _ _ _ _ _ _ _ _ => m

/-- The slot block of a node, if it owns one (R14). -/
def Node.sblk : Node → Option SlotBlock
  | .bare b => b
  | .full b _ _ _ _ _ _ _ _ _ => b

/-- `n.calloc`: the node owns a child block (R14). -/
def Node.calloc : Node → Bool
  | .bare _ => false
  | .full _ _ _ _ _ _ _ _ _ _ => true

/-- `n.salloc`: the node owns a slot block (R14). -/
def Node.salloc (n : Node) : Bool := n.sblk.isSome

/-- smask of a node; 0 without a slot block (R14, R21). -/
def Node.smask (n : Node) : BitVec 16 :=
  match n.sblk with
  | none => 0
  | some b => b.smask

/-- Child g is present iff cmask[g] = 1 (R15). -/
def Node.present (n : Node) (g : Fin 8) : Bool := n.cmask.getLsbD g.val

/-- The node record kid[g] of the child block (R14); asked only of nodes that own one. -/
def Node.kid : Node → Fin 8 → Node
  | .bare _, _ => .empty
  | .full _ _ k0 k1 k2 k3 k4 k5 k6 k7, g =>
    match g with
    | 0 => k0
    | 1 => k1
    | 2 => k2
    | 3 => k3
    | 4 => k4
    | 5 => k5
    | 6 => k6
    | 7 => k7

/-- The node with record g of its child block replaced; a node without a block is unchanged. -/
def Node.setKid : Node → Fin 8 → Node → Node
  | .bare b, _, _ => .bare b
  | .full b m k0 k1 k2 k3 k4 k5 k6 k7, g, k =>
    match g with
    | 0 => .full b m k k1 k2 k3 k4 k5 k6 k7
    | 1 => .full b m k0 k k2 k3 k4 k5 k6 k7
    | 2 => .full b m k0 k1 k k3 k4 k5 k6 k7
    | 3 => .full b m k0 k1 k2 k k4 k5 k6 k7
    | 4 => .full b m k0 k1 k2 k3 k k5 k6 k7
    | 5 => .full b m k0 k1 k2 k3 k4 k k6 k7
    | 6 => .full b m k0 k1 k2 k3 k4 k5 k k7
    | 7 => .full b m k0 k1 k2 k3 k4 k5 k6 k

/-- `n.cmask[g] <- 1`; a node without a block is unchanged. -/
def Node.setCmaskBit : Node → Fin 8 → Node
  | .bare b, _ => .bare b
  | .full b m k0 k1 k2 k3 k4 k5 k6 k7, g =>
    .full b (m ||| (1#8 <<< g.val)) k0 k1 k2 k3 k4 k5 k6 k7

/-- The node with its slot block replaced. -/
def Node.setSblk : Node → Option SlotBlock → Node
  | .bare _, b => .bare b
  | .full _ m k0 k1 k2 k3 k4 k5 k6 k7, b => .full b m k0 k1 k2 k3 k4 k5 k6 k7

/-- `if not n.calloc then AllocC(n)`: a new child block holds 8 empty node records (R66, R110). -/
def Node.withChildBlock : Node → Node
  | .bare b => .full b 0 .empty .empty .empty .empty .empty .empty .empty .empty
  | .full b m k0 k1 k2 k3 k4 k5 k6 k7 => .full b m k0 k1 k2 k3 k4 k5 k6 k7

/-- A new slot block: 15 all-zero payloads, no slot occupied (R66). -/
def SlotBlock.fresh : SlotBlock := { smask := 0, slots := Vector.replicate 15 0 }

/-- Slot s holds an active route (R16). -/
def SlotBlock.occupied (b : SlotBlock) (s : Fin 15) : Bool := b.smask.getLsbD s.val

/-- `n.slot[s] <- p; n.smask[s] <- 1` (R110). -/
def SlotBlock.store (b : SlotBlock) (s : Fin 15) (p : Payload) : SlotBlock :=
  { smask := b.smask ||| (1#16 <<< s.val), slots := b.slots.set s.val p s.isLt }

/-- `n.smask[s] <- 0`; the payload stays in place as a stale one (R16, R120). -/
def SlotBlock.vacate (b : SlotBlock) (s : Fin 15) : SlotBlock :=
  { b with smask := b.smask &&& ~~~(1#16 <<< s.val) }

/-- The route stored at slot s of a node, if the slot is occupied (R16). -/
def Node.route (n : Node) (s : Fin 15) : Option Payload :=
  match n.sblk with
  | none => none
  | some b => if b.occupied s then some (b.slots.get s) else none

/-- free_c (R23). -/
def State.freeC (s : State) : Nat := s.cfg.cblockCap - s.usedC

/-- free_s (R23). -/
def State.freeS (s : State) : Nat := s.cfg.sblockCap - s.usedS

/-- `nc` calls of AllocC and `ns` calls of AllocS (R66). -/
def State.allocate (nc ns : Nat) (s : State) : State :=
  { s with usedC := s.usedC + nc, usedS := s.usedS + ns }

/-- `nc` calls of FreeC and `ns` calls of FreeS (R67). -/
def State.free (nc ns : Nat) (s : State) : State :=
  { s with usedC := s.usedC - nc, usedS := s.usedS - ns }

/-- `T[t] <- T` (R11). -/
def State.setTable (t : Nat) (T : Table) (s : State) : State := { s with tables := s.tables.set t T }

/-- The values a completion writes to the result registers (R61). -/
structure Result where
  err : ErrCode
  res : Bool
  addr : Key
  cidr : BitVec 6
  payload : Payload
  deriving DecidableEq, Repr

/-- `ERR = OK, RES = r` and every other result register 0. -/
def Result.flag (r : Bool) : Result := { err := .ok, res := r, addr := 0, cidr := 0, payload := 0 }

/-- `ERR = OK, RES = r` with a result payload and the other registers 0. -/
def Result.withPayload (r : Bool) (p : Payload) : Result :=
  { err := .ok, res := r, addr := 0, cidr := 0, payload := p }

/-- Completion: the result registers are written, BUSY <- 0, DONE <- 1, L <- none (R61). -/
def State.complete (r : Result) (s : State) : State :=
  { s with
    err := r.err, res := r.res, resAddr := r.addr, resCidr := r.cidr, resPayload := r.payload
    latch := none, done := true }

/-- TAKING AN ERROR, the one shared operation of every `raise` (R181): the completion writes ERR, zeros
in every other result register, BUSY <- 0 and DONE <- 1, and changes nothing else. There is no vector,
no saved state and no mode (R186), and no return (R187: the host acknowledges through
`State.writeStatus`). -/
def State.raise (e : ErrCode) (s : State) : State :=
  s.complete { err := e, res := false, addr := 0, cidr := 0, payload := 0 }

/-- Acceptance of a command word while not busy (R60). -/
def State.accept (w : Word) (s : State) : State :=
  { s with
    cmd := w, latch := some { cmd := w, addr := s.addr, payload := s.payloadIn }, done := false }

/-- A CMD write while busy is dropped and sets OVERRUN (R62). -/
def State.dropCommand (s : State) : State := { s with overrun := true }

/-- The command in flight, which every meaning completes: without one there is no latch (R40). -/
def withLatch (s : State) (k : Latch → Host.Outcome State Fault Refusal) :
    Host.Outcome State Fault Refusal :=
  match s.latch with
  | none => .fault .noCommandInFlight
  | some L => k L

/-- Check 3 of R182: T[t], or BAD_TABLE when t ≥ NUM_TABLES. -/
def withTable (t : Nat) (s : State) (k : Table → Host.Outcome State Fault Refusal) :
    Host.Outcome State Fault Refusal :=
  match s.tables[t]? with
  | none => .next (s.raise .badTable)
  | some T => k T

/-- Checks 3 and 4 of R182: a created table, or BAD_TABLE, or RELEASED (R183). -/
def withLiveTable (t : Nat) (s : State) (k : Table → Host.Outcome State Fault Refusal) :
    Host.Outcome State Fault Refusal :=
  withTable t s fun T => if T.live then k T else .next (s.raise .released)

/-- Check 5 of R182: a CIDR length of 0..32, or BAD_CIDR (R85). -/
def withCidr (c : Nat) (s : State) (k : Host.Outcome State Fault Refusal) :
    Host.Outcome State Fault Refusal :=
  if 32 < c then .next (s.raise .badCidr) else k

end Sys2Proof.Machine
end

