-- ==== Sys2Proof/Machine/Trie.lean ====
section
/-! DEFINITION. The trie walks (41_route_ops.md, 42_table_ops.md): find, the capacity count, insertion,
update in place, longest-prefix match, the reclamation sweep, the blocks a table owns, and the
enumeration sequence. A walk from depth d takes `rem` further steps. -/

namespace Sys2Proof.Machine

/-- The walk of `find` from a node at depth d (R103). -/
def findFrom (a : Key) : (rem d : Nat) → Node → Option Node
  | 0, _, n => some n
  | rem + 1, d, n =>
    if n.present (group a d) then findFrom a rem (d + 1) (n.kid (group a d)) else none

/-- find(t, a, D) over the root of the table: the node at depth D on the key's path (R103). -/
def Node.find (root : Node) (a : Key) (depth : Nat) : Option Node := findFrom a depth 0 root

/-- The node that owns a child block already, so that ADD allocates none for it (R111); a node that
does not exist owns none. -/
def ownsChildren : Option Node → Bool
  | none => false
  | some n => decide (n.cmask ≠ 0)

/-- The next node of the counting walk, none where it does not exist yet (R111). -/
def nextNode (n : Option Node) (g : Fin 8) : Option Node :=
  match n with
  | none => none
  | some m => if m.present g then some (m.kid g) else none

/-- The counting walk of R111 from a node at depth d: (nc, ns). -/
def needFrom (a : Key) : (rem d : Nat) → Option Node → Nat × Nat
  | 0, _, n =>
    match n with
    | none => (0, 1)
    | some m => (0, if m.salloc then 0 else 1)
  | rem + 1, d, n =>
    let r := needFrom a rem (d + 1) (nextNode n (group a d))
    ((if ownsChildren n then 0 else 1) + r.1, r.2)

/-- need(t, a, D): the child blocks and slot blocks ADD will allocate (R111). -/
def Node.need (root : Node) (a : Key) (depth : Nat) : Nat × Nat := needFrom a depth 0 (some root)

/-- What an insertion leaves: the node, the blocks it allocated, and whether it replaced a route. -/
structure Inserted where
  node : Node
  nc : Nat
  ns : Nat
  replaced : Bool
  deriving DecidableEq, Repr

/-- The last lines of R110 at the node that owns the boundary: AllocS if absent, the old smask bit,
the payload and the new smask bit. -/
def Node.storeRoute (n : Node) (s : Fin 15) (p : Payload) : Inserted :=
  match n.sblk with
  | none =>
    { node := n.setSblk (some (SlotBlock.fresh.store s p)), nc := 0, ns := 1, replaced := false }
  | some b =>
    { node := n.setSblk (some (b.store s p)), nc := 0, ns := 0, replaced := b.occupied s }

/-- The record ADD descends into: the present child, or a record initialised to the empty node (R110). -/
def Node.kidOrEmpty (n : Node) (g : Fin 8) : Node := if n.present g then n.kid g else .empty

/-- The descent of R110 from a node at depth d: AllocC if absent, create the child if absent, descend. -/
def insertFrom (a : Key) (s : Fin 15) (p : Payload) : (rem d : Nat) → Node → Inserted
  | 0, _, n => n.storeRoute s p
  | rem + 1, d, n =>
    let g := group a d
    let m := n.withChildBlock
    let r := insertFrom a s p rem (d + 1) (m.kidOrEmpty g)
    { node := (m.setKid g r.node).setCmaskBit g
      nc := (if n.calloc then 0 else 1) + r.nc
      ns := r.ns
      replaced := r.replaced }

/-- ADD on the root of a table (R110). -/
def Node.insert (root : Node) (a : Key) (c : Nat) (p : Payload) : Inserted :=
  insertFrom a (boundary a c).slot p (boundary a c).depth 0 root

/-- Writing the node at the end of a walk back in place, along the key's path. -/
def replaceFrom (a : Key) (new : Node) : (rem d : Nat) → Node → Node
  | 0, _, _ => new
  | rem + 1, d, n => n.setKid (group a d) (replaceFrom a new rem (d + 1) (n.kid (group a d)))

/-- DELETE on the root of a table (R120): none is "not found", else the root with the smask bit of the
boundary's slot cleared. -/
def Node.remove (root : Node) (a : Key) (c : Nat) : Option Node :=
  match root.find a (boundary a c).depth with
  | none => none
  | some n =>
    match n.sblk with
    | none => none
    | some b =>
      if b.occupied (boundary a c).slot then
        some (replaceFrom a (n.setSblk (some (b.vacate (boundary a c).slot))) (boundary a c).depth 0 root)
      else none

/-- The probes of one node of the LOOKUP walk (R115): the best match so far, overwritten by the first
occupied slot. An occupied slot of 7..14 is a broken invariant (R20, 93_implementation_defined.md). -/
def probeNode (n : Node) (g : Fin 8) (best : Option Payload) : Except Fault (Option Payload) :=
  match (probeOrder g).find? (fun s => (n.route s).isSome) with
  | none => .ok best
  | some s => if isK3Slot s then .error .k3SlotOccupied else .ok (n.route s)

/-- The LOOKUP walk from a node at depth d, with `rem` deeper levels left (R115: d < 10). -/
def lookupFrom (a : Key) : (rem d : Nat) → Option Payload → Node → Except Fault (Option Payload)
  | 0, d, best, n => probeNode n (group a d) best
  | rem + 1, d, best, n =>
    match probeNode n (group a d) best with
    | .error f => .error f
    | .ok best' =>
      if n.present (group a d) then lookupFrom a rem (d + 1) best' (n.kid (group a d))
      else .ok best'

/-- LOOKUP on the root of a table (R115): the payload of the best match, or none on a miss. -/
def Node.lookup (root : Node) (a : Key) : Except Fault (Option Payload) := lookupFrom a 10 0 none root

/-- What a sweep of one node leaves (R140): the node, whether it is dead, and the blocks it freed. -/
structure Swept where
  node : Node
  dead : Bool
  freedC : Nat
  freedS : Nat
  deriving DecidableEq, Repr

/-- The end of R140 for a node whose children are done: FreeC if no child is left, `dead`, FreeS if
dead. `freedC` and `freedS` are the blocks its children freed. -/
def finishSweep (b : Option SlotBlock) (m : BitVec 8) (k0 k1 k2 k3 k4 k5 k6 k7 : Node)
    (freedC freedS : Nat) : Swept :=
  if m = 0 then
    match b with
    | none => { node := .bare none, dead := true, freedC := freedC + 1, freedS := freedS }
    | some x =>
      if x.smask = 0 then
        { node := .bare none, dead := true, freedC := freedC + 1, freedS := freedS + 1 }
      else { node := .bare (some x), dead := false, freedC := freedC + 1, freedS := freedS }
  else
    { node := .full b m k0 k1 k2 k3 k4 k5 k6 k7, dead := false, freedC := freedC, freedS := freedS }

/-- The sweep of a node without a child block (R140). -/
def sweepBare (b : Option SlotBlock) : Swept :=
  match b with
  | none => { node := .bare none, dead := true, freedC := 0, freedS := 0 }
  | some x =>
    if x.smask = 0 then { node := .bare none, dead := true, freedC := 0, freedS := 1 }
    else { node := .bare (some x), dead := false, freedC := 0, freedS := 0 }

/-- The cmask bits the pass clears: children that are present and dead (R140). -/
def pruneBit (m : BitVec 8) (g : Nat) (r : Swept) : BitVec 8 :=
  if m.getLsbD g && r.dead then 1#8 <<< g else 0

/-- Record g after the pass over it: swept if the child is present, else untouched (R140). -/
def sweptKid (m : BitVec 8) (g : Nat) (k : Node) (r : Swept) : Node :=
  if m.getLsbD g then r.node else k

/-- A count that the pass makes only over present children (R140, R150). -/
def ifPresent (m : BitVec 8) (g : Nat) (x : Nat) : Nat := if m.getLsbD g then x else 0

/-- sweep(n): the post-order reclamation pass (R140). -/
def Node.sweep : Node → Swept
  | .bare b => sweepBare b
  | .full b m k0 k1 k2 k3 k4 k5 k6 k7 =>
    let r0 := k0.sweep
    let r1 := k1.sweep
    let r2 := k2.sweep
    let r3 := k3.sweep
    let r4 := k4.sweep
    let r5 := k5.sweep
    let r6 := k6.sweep
    let r7 := k7.sweep
    let pruned := pruneBit m 0 r0 ||| pruneBit m 1 r1 ||| pruneBit m 2 r2 ||| pruneBit m 3 r3 |||
      pruneBit m 4 r4 ||| pruneBit m 5 r5 ||| pruneBit m 6 r6 ||| pruneBit m 7 r7
    let freedC := ifPresent m 0 r0.freedC + ifPresent m 1 r1.freedC + ifPresent m 2 r2.freedC +
      ifPresent m 3 r3.freedC + ifPresent m 4 r4.freedC + ifPresent m 5 r5.freedC +
      ifPresent m 6 r6.freedC + ifPresent m 7 r7.freedC
    let freedS := ifPresent m 0 r0.freedS + ifPresent m 1 r1.freedS + ifPresent m 2 r2.freedS +
      ifPresent m 3 r3.freedS + ifPresent m 4 r4.freedS + ifPresent m 5 r5.freedS +
      ifPresent m 6 r6.freedS + ifPresent m 7 r7.freedS
    finishSweep b (m &&& ~~~pruned) (sweptKid m 0 k0 r0) (sweptKid m 1 k1 r1) (sweptKid m 2 k2 r2)
      (sweptKid m 3 k3 r3) (sweptKid m 4 k4 r4) (sweptKid m 5 k5 r5) (sweptKid m 6 k6 r6)
      (sweptKid m 7 k7 r7) freedC freedS

/-- The child blocks that a subtree owns: what freeAll returns to the child-block pool (R150), and the
table's part of used_c (R23). -/
def Node.ownedC : Node → Nat
  | .bare _ => 0
  | .full _ m k0 k1 k2 k3 k4 k5 k6 k7 =>
    1 + (ifPresent m 0 k0.ownedC + ifPresent m 1 k1.ownedC + ifPresent m 2 k2.ownedC +
      ifPresent m 3 k3.ownedC + ifPresent m 4 k4.ownedC + ifPresent m 5 k5.ownedC +
      ifPresent m 6 k6.ownedC + ifPresent m 7 k7.ownedC)

/-- One slot block, if there is one. -/
def slotBlocks (b : Option SlotBlock) : Nat := if b.isSome then 1 else 0

/-- The slot blocks that a subtree owns: what freeAll returns to the slot-block pool (R150), and the
table's part of used_s (R23). -/
def Node.ownedS : Node → Nat
  | .bare b => slotBlocks b
  | .full b m k0 k1 k2 k3 k4 k5 k6 k7 =>
    slotBlocks b + (ifPresent m 0 k0.ownedS + ifPresent m 1 k1.ownedS + ifPresent m 2 k2.ownedS +
      ifPresent m 3 k3.ownedS + ifPresent m 4 k4.ownedS + ifPresent m 5 k5.ownedS +
      ifPresent m 6 k6.ownedS + ifPresent m 7 k7.ownedS)

/-- A triple of the enumeration sequence (R155). -/
structure Entry where
  addr : Key
  cidr : Nat
  payload : Payload
  deriving DecidableEq, Repr

/-- The occupied slots of one node, in ascending slot order (R155). -/
def ownEntries (b : Option SlotBlock) (d p : Nat) : List Entry :=
  match b with
  | none => []
  | some x =>
    allSlots.filterMap fun s =>
      if x.occupied s then
        some { addr := prefixAddr d p s, cidr := prefixLen d s, payload := x.slots.get s }
      else none

/-- A list that the traversal makes only of present children (R155). -/
def listIfPresent (m : BitVec 8) (g : Nat) (es : List Entry) : List Entry :=
  if m.getLsbD g then es else []

/-- enum(n, d, p): the node's own slots, then its present children in ascending group order (R155). -/
def Node.entries : Node → (d p : Nat) → List Entry
  | .bare b, d, p => ownEntries b d p
  | .full b m k0 k1 k2 k3 k4 k5 k6 k7, d, p =>
    ownEntries b d p ++ listIfPresent m 0 (k0.entries (d + 1) (8 * p)) ++
      listIfPresent m 1 (k1.entries (d + 1) (8 * p + 1)) ++
      listIfPresent m 2 (k2.entries (d + 1) (8 * p + 2)) ++
      listIfPresent m 3 (k3.entries (d + 1) (8 * p + 3)) ++
      listIfPresent m 4 (k4.entries (d + 1) (8 * p + 4)) ++
      listIfPresent m 5 (k5.entries (d + 1) (8 * p + 5)) ++
      listIfPresent m 6 (k6.entries (d + 1) (8 * p + 6)) ++
      listIfPresent m 7 (k7.entries (d + 1) (8 * p + 7))

/-- Enum(t) over the root of the table (R155). -/
def Node.enumAll (root : Node) : List Entry := root.entries 0 0

/-- A slot block with one of the slots 7..14 occupied (R20 broken). -/
def blockK3 (b : Option SlotBlock) : Bool :=
  match b with
  | none => false
  | some x => decide (x.smask.extractLsb' 7 8 ≠ 0)

/-- A traversal of the subtree finds one of the slots 7..14 occupied (R20 broken). -/
def Node.hasK3 : Node → Bool
  | .bare b => blockK3 b
  | .full b m k0 k1 k2 k3 k4 k5 k6 k7 =>
    blockK3 b || m.getLsbD 0 && k0.hasK3 || m.getLsbD 1 && k1.hasK3 || m.getLsbD 2 && k2.hasK3 ||
      m.getLsbD 3 && k3.hasK3 || m.getLsbD 4 && k4.hasK3 || m.getLsbD 5 && k5.hasK3 ||
      m.getLsbD 6 && k6.hasK3 || m.getLsbD 7 && k7.hasK3

end Sys2Proof.Machine
end

