-- ==== Sys2Proof/Machine/Route.lean ====
section
/-! DEFINITION. The route commands ADD, LOOKUP and DELETE (41_route_ops.md). Each meaning completes the
command in flight; its key and payload come from the latch (rule R88). The checks run in the order of
rule R182. -/

namespace Sys2Proof.Machine

/-- The pools cannot give ADD the blocks it needs: check 7 of R182. -/
def State.short (s : State) (need : Nat × Nat) : Bool :=
  decide (s.freeC < need.1) || decide (s.freeS < need.2)

/-- The table after a successful mutation: a new root and no valid cursor (R160). -/
def Table.mutated (T : Table) (root : Node) : Table := { T with root := root, ecurValid := false }

/-- ADD (R110, R111). -/
def execAdd (cidr table : Nat) (s : State) : Host.Outcome State Fault Refusal :=
  withLatch s fun L =>
    withLiveTable table s fun T =>
      withCidr cidr s <|
        if s.short (T.root.need L.addr (cidr / 3)) then .next (s.raise .nomem)
        else
          let r := T.root.insert L.addr cidr L.payload
          .next (((s.setTable table (T.mutated r.node)).allocate r.nc r.ns).complete
            (Result.flag r.replaced))

/-- LOOKUP (R115); the CIDR field is ignored (R82). A k = 3 slot found occupied is a fault
(93_implementation_defined.md section 1). -/
def execLookup (_cidr table : Nat) (s : State) : Host.Outcome State Fault Refusal :=
  withLatch s fun L =>
    withLiveTable table s fun T =>
      match T.root.lookup L.addr with
      | .error f => .fault f
      | .ok none => .next (s.complete (Result.withPayload false 0))
      | .ok (some p) => .next (s.complete (Result.withPayload true p))

/-- DELETE (R120): clears at most one smask bit and frees nothing; an absent route is RES = 0 (R184). -/
def execDelete (cidr table : Nat) (s : State) : Host.Outcome State Fault Refusal :=
  withLatch s fun L =>
    withLiveTable table s fun T =>
      withCidr cidr s <|
        match T.root.remove L.addr cidr with
        | none => .next ((s.setTable table (T.mutated T.root)).complete (Result.flag false))
        | some root => .next ((s.setTable table (T.mutated root)).complete (Result.flag true))

end Sys2Proof.Machine
end

