-- ==== Sys2Proof/Machine/TableCmds.lean ====
section
/-! DEFINITION. The table commands NOP, CLEANUP, CLEAR, ENUM_START, ENUM_NEXT, RELEASE and CREATE
(42_table_ops.md). The CIDR field is ignored by all of them, and TABLE by NOP (rule R82). -/

namespace Sys2Proof.Machine

/-- NOP (R175): completes and does nothing else. -/
def execNop (_cidr _table : Nat) (s : State) : Host.Outcome State Fault Refusal :=
  withLatch s fun _ => .next (s.complete (Result.flag false))

/-- CLEANUP (R140, R141): the sweep of the table's root, the blocks it freed, RES = the root is dead. -/
def execCleanup (_cidr table : Nat) (s : State) : Host.Outcome State Fault Refusal :=
  withLatch s fun _ =>
    withLiveTable table s fun T =>
      let r := T.root.sweep
      .next (((s.setTable table (T.mutated r.node)).free r.freedC r.freedS).complete
        (Result.flag r.dead))

/-- freeAll(T[t].root) and T[t].root <- empty node (R150), the shared part of CLEAR and RELEASE. -/
def State.emptyTable (table : Nat) (T : Table) (s : State) : State :=
  (s.setTable table (T.mutated .empty)).free T.root.ownedC T.root.ownedS

/-- CLEAR (R150). -/
def execClear (_cidr table : Nat) (s : State) : Host.Outcome State Fault Refusal :=
  withLatch s fun _ =>
    withLiveTable table s fun T => .next ((s.emptyTable table T).complete (Result.flag false))

/-- ENUM_START (R156): the cursor is valid and at the first element. -/
def execEnumStart (_cidr table : Nat) (s : State) : Host.Outcome State Fault Refusal :=
  withLatch s fun _ =>
    withLiveTable table s fun T =>
      .next ((s.setTable table { T with ecurValid := true, ecurPos := 0 }).complete
        (Result.flag false))

/-- The result of ENUM_NEXT that returns a triple (R157). -/
def Result.triple (e : Entry) : Result :=
  { err := .ok, res := true, addr := e.addr, cidr := BitVec.ofNat 6 e.cidr, payload := e.payload }

/-- ENUM_NEXT (R157): check 6 of R182, then the element at the cursor, or RES = 0 at the end. A k = 3
slot found occupied by the traversal is a fault (93_implementation_defined.md section 1). -/
def execEnumNext (_cidr table : Nat) (s : State) : Host.Outcome State Fault Refusal :=
  withLatch s fun _ =>
    withLiveTable table s fun T =>
      if !T.ecurValid then .next (s.raise .enumInvalid)
      else if T.root.hasK3 then .fault .k3SlotOccupied
      else
        match T.root.enumAll[T.ecurPos]? with
        | none => .next (s.complete (Result.flag false))
        | some e =>
          .next ((s.setTable table { T with ecurPos := T.ecurPos + 1 }).complete (Result.triple e))

/-- RELEASE (R170): frees everything and releases the table; on a released table RES = 0, no error. -/
def execRelease (_cidr table : Nat) (s : State) : Host.Outcome State Fault Refusal :=
  withLatch s fun _ =>
    withTable table s fun T =>
      if T.live then
        .next ((s.emptyTable table { T with live := false }).complete (Result.flag true))
      else .next ((s.setTable table { T with ecurValid := false }).complete (Result.flag false))

/-- CREATE (R172): makes a released table usable again; RES = 1 iff it was released. -/
def execCreate (_cidr table : Nat) (s : State) : Host.Outcome State Fault Refusal :=
  withLatch s fun _ =>
    withTable table s fun T =>
      if T.live then .next ((s.setTable table { T with ecurValid := false }).complete (Result.flag false))
      else
        .next ((s.setTable table { T with live := true, ecurValid := false }).complete
          (Result.flag true))

end Sys2Proof.Machine
end

