-- ==== Sys2Proof/Machine/Dispatch.lean ====
section
/-! DEFINITION. The meaning of every command: one arm per constructor of Instr, one direct call. -/

namespace Sys2Proof.Machine

/-- The completion of a decoded command (rule R61: "performs the command's rule"). -/
def exec (i : Instr) (s : State) : Host.Outcome State Fault Refusal :=
  match i with
  | .nop cidr table => Sys2Proof.Machine.execNop cidr table s
  | .add cidr table => Sys2Proof.Machine.execAdd cidr table s
  | .lookup cidr table => Sys2Proof.Machine.execLookup cidr table s
  | .delete cidr table => Sys2Proof.Machine.execDelete cidr table s
  | .cleanup cidr table => Sys2Proof.Machine.execCleanup cidr table s
  | .clear cidr table => Sys2Proof.Machine.execClear cidr table s
  | .enumStart cidr table => Sys2Proof.Machine.execEnumStart cidr table s
  | .enumNext cidr table => Sys2Proof.Machine.execEnumNext cidr table s
  | .release cidr table => Sys2Proof.Machine.execRelease cidr table s
  | .create cidr table => Sys2Proof.Machine.execCreate cidr table s

end Sys2Proof.Machine
end

