-- ==== Sys2Proof/Machine/Registers.lean ====
section
/-! DEFINITION. The host register file: the register map (rule R27), register reads and writes
(rules R28 to R39, R56, R60, R62), and host accesses on the bus (rules R50, R52, R53). -/

namespace Sys2Proof.Machine

/-- The registers of the map of R27; `unmapped` is every other offset of the window (R39). -/
inductive Reg where
  | cmd | status | ctrl | addr | resAddr | resCidr | freeCblocks | freeSblocks | params
  | capCblocks | capSblocks
  | payloadIn (i : Nat)
  | resPayload (i : Nat)
  | unmapped
  deriving DecidableEq, Repr

/-- The register at a 4-byte-aligned offset of the window (R27). PAYLOAD_IN[i] and RES_PAYLOAD[i] with
i ≥ PAYLOAD_WORDS are unmapped (R39). -/
def regAt (cfg : Config) (off : Nat) : Reg :=
  if off = 0x000 then .cmd
  else if off = 0x004 then .status
  else if off = 0x008 then .ctrl
  else if off = 0x00C then .addr
  else if off = 0x010 then .resAddr
  else if off = 0x014 then .resCidr
  else if off = 0x018 then .freeCblocks
  else if off = 0x01C then .freeSblocks
  else if off = 0x020 then .params
  else if off = 0x024 then .capCblocks
  else if off = 0x028 then .capSblocks
  else if 0x100 ≤ off ∧ off < 0x100 + 4 * payloadWords cfg ∧ off % 4 = 0 then
    .payloadIn ((off - 0x100) / 4)
  else if 0x200 ≤ off ∧ off < 0x200 + 4 * payloadWords cfg ∧ off % 4 = 0 then
    .resPayload ((off - 0x200) / 4)
  else .unmapped

/-- NUM_TABLES: the number of table records (R5, R11). -/
def State.numTables (s : State) : Nat := s.tables.length

/-- What a register reads (R28 to R39). No read changes any state (R56). -/
def State.readReg (s : State) : Reg → Word
  | .cmd => s.cmd
  | .status => s.statusWord
  | .ctrl => (BitVec.ofBool s.irqEn).setWidth 32
  | .addr => s.addr
  | .resAddr => s.resAddr
  | .resCidr => s.resCidr.setWidth 32
  | .freeCblocks => BitVec.ofNat 32 s.freeC
  | .freeSblocks => BitVec.ofNat 32 s.freeS
  | .params => (BitVec.ofNat 16 s.cfg.payloadBits ++ BitVec.ofNat 16 s.numTables).setWidth 32
  | .capCblocks => BitVec.ofNat 32 s.cfg.cblockCap
  | .capSblocks => BitVec.ofNat 32 s.cfg.sblockCap
  | .payloadIn i => payloadWord s.payloadIn i
  | .resPayload i => payloadWord s.resPayload i
  | .unmapped => 0

/-- A write of CMD: accepted while not busy (R60), else dropped (R62). -/
def State.writeCmd (v : Word) (s : State) : State := if s.busy then s.dropCommand else s.accept v

/-- A host write of a register (R28 to R39); read-only registers and unmapped offsets ignore it. -/
def State.writeReg (s : State) (v : Word) : Reg → State
  | .cmd => s.writeCmd v
  | .status => s.writeStatus v
  | .ctrl => { s with irqEn := v.getLsbD 0 }
  | .addr => { s with addr := v }
  | .payloadIn i => { s with payloadIn := setPayloadWord s.cfg.payloadBits s.payloadIn i v }
  | .resAddr => s
  | .resCidr => s
  | .freeCblocks => s
  | .freeSblocks => s
  | .params => s
  | .capCblocks => s
  | .capSblocks => s
  | .resPayload _ => s
  | .unmapped => s

/-- The size of the register window (R27, R50). -/
def windowBytes : Nat := 0x400

/-- What the block makes of a bus address and a width: an offset of the register space, or a refusal
(R50, R52). -/
def accessOffset (cfg : Config) (address bytes : Nat) : Except Refusal Nat :=
  if address < cfg.base ∨ cfg.base + windowBytes ≤ address then .error .outsideWindow
  else if bytes ≠ 4 ∨ (address - cfg.base) % 4 ≠ 0 then .error .nonWordAccess
  else .ok (address - cfg.base)

/-- One host access (R52, R63): a read drives the register's value on the bus, a write writes it. -/
def hostAccess (a : Access) (s : State) : Host.Outcome State Fault Refusal :=
  match a with
  | .read address bytes =>
    match accessOffset s.cfg address bytes with
    | .error r => .refused r
    | .ok off => .next { s with lastRead := some (s.readReg (regAt s.cfg off)) }
  | .write address bytes value =>
    match accessOffset s.cfg address bytes with
    | .error r => .refused r
    | .ok off => .next (s.writeReg value (regAt s.cfg off))

/-- The byte that the register space shows at a byte offset of the window: lane off mod 4 of the
register word that holds it (R53). -/
def State.regByte (s : State) (off : Nat) : Byte :=
  laneOf (s.readReg (regAt s.cfg (off - off % 4))) (off % 4)

end Sys2Proof.Machine
end

