-- ==== Sys2Proof/Machine/Engine.lean ====
section
/-! DEFINITION. The engine's turn: fetching the command in flight from the latch, decoding it and
completing it (rules R61, R182, R220). -/

namespace Sys2Proof.Machine

/-- What the engine executes: the decoded command word of the latch, none when not busy (R40, R61). -/
def State.fetched (s : State) : Option (Except Illegal Instr) :=
  match s.latch with
  | none => none
  | some L => some (decode L.cmd)

/-- The engine's turn: nothing when idle (R198), else the completion of the command in flight (R61).
Checks 1 and 2 of R182 are the decoder's (R89). -/
def engineTurn (s : State) : Host.Outcome State Fault Refusal :=
  match s.fetched with
  | none => .next s
  | some (.error x) => .next (s.raise (illegalErr x))
  | some (.ok i) => exec i s

/-- An assertion of the reset input (R210): every piece of the block's state takes its reset value; the
parameters and the accesses still on the bus are outside the reset (assumption 12). -/
def State.afterReset (s : State) : State :=
  { State.resetWith s.cfg s.numTables with inputs := s.inputs }

/-- One event at the block (R10, R63). -/
def handleEvent (e : Event) (s : State) : Host.Outcome State Fault Refusal :=
  match e with
  | .access a => hostAccess a s
  | .engine => engineTurn s
  | .reset => .next s.afterReset

/-- The events with the engine's turn first; when none is left it is the engine's turn already. -/
def engineFirst (es : List Event) : List Event := if es = [] then [] else .engine :: es

/-- The command word w in flight, as right after its acceptance (R60), and the engine's turn next. -/
def State.inFlight (w : Word) (s : State) : State :=
  { s.accept w with inputs := engineFirst s.inputs }

end Sys2Proof.Machine
end

