-- ==== Sys2Proof/Machine/Step.lean ====
section
/-! DEFINITION. One step of the machine: the next event of the input stream, or the engine's turn when
the stream is empty (rules R63, R191, R220; assumption 2). -/

namespace Sys2Proof.Machine

/-- One step. The order of host accesses and completions is the order of the stream (R63, R191); once
the stream is empty an enabled completion happens (weak fairness, R220). -/
def step (s : State) : Host.Outcome State Fault Refusal :=
  match s.inputs with
  | [] => engineTurn s
  | e :: rest => handleEvent e { s with inputs := rest }

/-- The state with the command word `w` accepted and the engine's turn next, so that the very next step
completes it (assumption 2: the host's write of CMD stands outside the block). -/
def State.withFetchWord (s : State) (_nbits w : Nat) : State := s.inFlight (BitVec.ofNat 32 w)

end Sys2Proof.Machine
end

