-- ==== Sys2Proof/Safety.lean ====
section
/-! DEFINITION. The terms the statements use: the invariants of 10_state.md section 4 and of the register
file, the routes a table stores, what an error completion leaves, and the check order of rule R182 as a
table. -/

namespace Sys2Proof.Machine

/-- A payload with no bit at or above PAYLOAD_BITS (R32, R35). -/
def payloadFits (bits : Nat) (p : Payload) : Bool := decide (trimPayload bits p = p)

/-- The slot-range invariant R20, `smask[15:7] = 0`, with every payload PAYLOAD_BITS wide. -/
def blockLegal (bits : Nat) : Option SlotBlock → Bool
  | none => true
  | some b => decide (b.smask.extractLsb' 7 9 = 0) && allSlots.all fun s => payloadFits bits (b.slots.get s)

/-- The empty node of R14. -/
def Node.isEmpty : Node → Bool
  | .bare none => true
  | .bare (some _) => false
  | .full _ _ _ _ _ _ _ _ _ _ => false

/-- What holds of record g of a child block: a present child is legal, and a record that is not part of
the trie (R15) is the empty node, as R66 starts it and CLEANUP leaves it (R15 allows any content there:
assumption 5). -/
def recordLegal (m : BitVec 8) (g : Nat) (k : Node) (legal : Bool) : Bool :=
  if m.getLsbD g then legal else k.isEmpty

/-- The node invariants at depth d: R19 (a child block iff cmask is not 0), R20, R22 (no node below depth
10, no child block at depth 10), and R15 for the records outside the trie. R21 holds by the shape of a
node. -/
def Node.legal (bits : Nat) : Node → (d : Nat) → Bool
  | .bare b, d => decide (d ≤ 10) && blockLegal bits b
  | .full b m k0 k1 k2 k3 k4 k5 k6 k7, d =>
    decide (d < 10) && decide (m ≠ 0) && blockLegal bits b &&
      recordLegal m 0 k0 (k0.legal bits (d + 1)) && recordLegal m 1 k1 (k1.legal bits (d + 1)) &&
      recordLegal m 2 k2 (k2.legal bits (d + 1)) && recordLegal m 3 k3 (k3.legal bits (d + 1)) &&
      recordLegal m 4 k4 (k4.legal bits (d + 1)) && recordLegal m 5 k5 (k5.legal bits (d + 1)) &&
      recordLegal m 6 k6 (k6.legal bits (d + 1)) && recordLegal m 7 k7 (k7.legal bits (d + 1))

/-- A table's root meets the node invariants, and a released table's root is the empty node (R12). -/
def Table.legal (bits : Nat) (T : Table) : Bool := T.root.legal bits 0 && (T.live || T.root.isEmpty)

/-- The trie invariants R12, R15, R19, R20, R22 of every table. -/
def State.trieInv (s : State) : Bool := s.tables.all (Table.legal s.cfg.payloadBits)

/-- The child blocks that the tables own (R23). -/
def State.ownedC (s : State) : Nat := (s.tables.map fun T => T.root.ownedC).sum

/-- The slot blocks that the tables own (R23). -/
def State.ownedS (s : State) : Nat := (s.tables.map fun T => T.root.ownedS).sum

/-- The pool accounting of R23: the counts are the blocks owned, and stay within the capacities. -/
def State.poolInv (s : State) : Bool :=
  decide (s.usedC = s.ownedC) && decide (s.usedS = s.ownedS) &&
    decide (s.usedC ≤ s.cfg.cblockCap) && decide (s.usedS ≤ s.cfg.sblockCap)

/-- The payload of the latch, if there is one, fits PAYLOAD_BITS. -/
def latchFits (bits : Nat) : Option Latch → Bool
  | none => true
  | some L => payloadFits bits L.payload

/-- The register file: a busy block has DONE = 0 (R60, R61), after an error every other result register
is 0 (R181), RES_CIDR is a length (R34), and payload registers are PAYLOAD_BITS wide (R32, R35). -/
def State.regInv (s : State) : Bool :=
  (!s.busy || !s.done) &&
    (decide (s.err = .ok) ||
      !s.res && decide (s.resAddr = 0) && decide (s.resCidr = 0) && decide (s.resPayload = 0)) &&
    decide (s.resCidr.toNat ≤ 32) && payloadFits s.cfg.payloadBits s.payloadIn &&
    payloadFits s.cfg.payloadBits s.resPayload && latchFits s.cfg.payloadBits s.latch

/-- The parameters are legal (R5). -/
def State.paramInv (s : State) : Bool :=
  s.cfg.legal && decide (1 ≤ s.numTables) && decide (s.numTables ≤ 256)

/-- A safe state: all of the above. -/
def State.inv (s : State) : Bool := s.paramInv && s.trieInv && s.poolInv && s.regInv

/-- What an error completion leaves (R181), written out: these registers, and nothing else. -/
def State.errorCompletion (e : ErrCode) (s : State) : State :=
  { s with
    err := e, res := false, resAddr := 0, resCidr := 0, resPayload := 0, latch := none, done := true }

/-- What a completion with ERR = OK and no address or length leaves (R61), written out. -/
def State.okCompletion (r : Bool) (p : Payload) (s : State) : State :=
  { s with
    err := .ok, res := r, resAddr := 0, resCidr := 0, resPayload := p, latch := none, done := true }

/-- The next step is the engine's turn, and `rest` are the events after it: the stream is empty, or the
engine's turn is its head (assumption 2). -/
def State.engineNext (s : State) (rest : List Event) : Prop :=
  s.inputs = [] ∧ rest = [] ∨ s.inputs = .engine :: rest

/-- The route stored for the prefix (a, c): at the boundary's slot of the node that owns it (R16, R102,
R103). -/
def storedAt (root : Node) (a : Key) (c : Nat) : Option Payload :=
  match root.find a (boundary a c).depth with
  | none => none
  | some n => n.route (boundary a c).slot

/-- The route at slot s of the node at depth d on the key's path (R16, R103). -/
def routeAt (root : Node) (a : Key) (d : Nat) (s : Fin 15) : Option Payload :=
  match root.find a d with
  | none => none
  | some n => n.route s

/-- Two keys name the same prefix of length c (R105). -/
def samePrefix (a b : Key) (c : Nat) : Bool := decide (maskKey a c = maskKey b c)

/-- The triples of the occupied slots of a node at depth d with path number p, in ascending slot order:
the first part of enum(n, d, p) in R155, over `Node.route`. -/
def ownTriples (n : Node) (d p : Nat) : List Entry :=
  (List.finRange 15).filterMap fun σ =>
    (n.route σ).map fun q => { addr := prefixAddr d p σ, cidr := prefixLen d σ, payload := q }

/-- The triples of the present children, in ascending group order: the second part of enum(n, d, p) in
R155, over `Node.present` and `Node.kid`. -/
def childTriples (n : Node) (d p : Nat) : List Entry :=
  (List.finRange 8).flatMap fun g =>
    if n.present g then (n.kid g).entries (d + 1) (8 * p + g.val) else []

/-- Some slot of the block is occupied. -/
def blockOccupied : Option SlotBlock → Bool
  | none => false
  | some b => decide (b.smask ≠ 0)

/-- The subtree stores a route, so it is not dead (R140, R142 (i)). -/
def Node.hasRoute : Node → Bool
  | .bare b => blockOccupied b
  | .full b m k0 k1 k2 k3 k4 k5 k6 k7 =>
    blockOccupied b || m.getLsbD 0 && k0.hasRoute || m.getLsbD 1 && k1.hasRoute ||
      m.getLsbD 2 && k2.hasRoute || m.getLsbD 3 && k3.hasRoute || m.getLsbD 4 && k4.hasRoute ||
      m.getLsbD 5 && k5.hasRoute || m.getLsbD 6 && k6.hasRoute || m.getLsbD 7 && k7.hasRoute

/-- A record of a reclaimed child block: if present, it stores a route below it and is reclaimed. -/
def recordReclaimed (m : BitVec 8) (g : Nat) (k : Node) (reclaimed : Bool) : Bool :=
  !m.getLsbD g || k.hasRoute && reclaimed

/-- Laws (i) to (iii) of R142 for a subtree: every child has a route in its subtree, a child block has
cmask not 0, and a node with no route and no child owns no slot block. -/
def Node.reclaimed : Node → Bool
  | .bare b => decide (b = none) || blockOccupied b
  | .full _ m k0 k1 k2 k3 k4 k5 k6 k7 =>
    decide (m ≠ 0) && recordReclaimed m 0 k0 k0.reclaimed && recordReclaimed m 1 k1 k1.reclaimed &&
      recordReclaimed m 2 k2 k2.reclaimed && recordReclaimed m 3 k3 k3.reclaimed &&
      recordReclaimed m 4 k4 k4.reclaimed && recordReclaimed m 5 k5 k5.reclaimed &&
      recordReclaimed m 6 k6 k6.reclaimed && recordReclaimed m 7 k7 k7.reclaimed

/-- The table t is not created (R12). -/
def State.isReleased (s : State) (t : Nat) : Bool :=
  match s.tables[t]? with
  | none => false
  | some T => !T.live

/-- The cursor of table t is not valid (R24). -/
def State.noCursor (s : State) (t : Nat) : Bool :=
  match s.tables[t]? with
  | none => false
  | some T => !T.ecurValid

/-- need(t, a, D) exceeds a pool (R111). -/
def State.needsMore (s : State) (t : Nat) (a : Key) (depth : Nat) : Bool :=
  match s.tables[t]? with
  | none => false
  | some T => decide (s.freeC < (T.root.need a depth).1) || decide (s.freeS < (T.root.need a depth).2)

/-- The checks of R182 on the latch, in order, over the raw fields of the command word: the error of the
first that fails, none if all pass. -/
def State.commandError (s : State) (L : Latch) : Option ErrCode :=
  let op := (L.cmd.extractLsb' 0 4).toNat
  let c := (L.cmd.extractLsb' 4 6).toNat
  let t := (L.cmd.extractLsb' 16 8).toNat
  if 0xA ≤ op then some .badOp
  else if L.cmd.extractLsb' 10 6 ≠ 0 ∨ L.cmd.extractLsb' 24 8 ≠ 0 then some .badCmd
  else if op ≠ 0 ∧ s.numTables ≤ t then some .badTable
  else if op ≠ 0 ∧ op ≠ 8 ∧ op ≠ 9 ∧ s.isReleased t then some .released
  else if (op = 1 ∨ op = 3) ∧ 32 < c then some .badCidr
  else if op = 7 ∧ s.noCursor t then some .enumInvalid
  else if op = 1 ∧ s.needsMore t L.addr (c / 3) then some .nomem
  else none

/-- The event is a host access that the block serves (R50, R52), or no host access. -/
def eventServed (cfg : Config) : Event → Bool
  | .access (.read address bytes) =>
    decide (cfg.base ≤ address) && decide (address < cfg.base + 0x400) && decide (bytes = 4) &&
      decide ((address - cfg.base) % 4 = 0)
  | .access (.write address bytes _) =>
    decide (cfg.base ≤ address) && decide (address < cfg.base + 0x400) && decide (bytes = 4) &&
      decide ((address - cfg.base) % 4 = 0)
  | .engine => true
  | .reset => true

end Sys2Proof.Machine
end

