-- ==== Sys2Proof/Certificates/Slice0/Obligations.lean ====
section
/-! DEFINITION. The statements for the provers. Each docstring names the rule of spec/ it formalises; a
statement that rests on a choice of the model names the assumption. -/

open Sys2Proof Sys2Proof.Machine

/-! ## Encoding (30_encoding.md) -/

/-- R90: the encoder is `(t << 16) | (cidr << 4) | op`, with the rule's two examples, and decoding an
encoded well-formed command gives it back, for every command and every operand. -/
def Obligations.DecodeEncodeRoundTrip : Prop :=
  ∀ i : Instr, i.wellFormed = true →
    (encode i).toNat = (i.table <<< 16) ||| (i.cidr <<< 4) ||| i.opcode ∧ i.opcode < 0xA ∧
      decode (encode i) = .ok i ∧
      encode (.add 24 0) = 0x00000181#32 ∧ encode (.lookup 0 2) = 0x00020002#32

/-- R89, R90: a word that decodes to a command is that command's encoding, and the command is well
formed; so no two words name one command with the same fields. -/
def Obligations.DecodedWordIsTheEncoding : Prop :=
  ∀ (w : Word) (i : Instr), decode w = .ok i → i.wellFormed = true ∧ encode i = w

/-- R80: a word selects the legal command with OP value o iff `(w & 0xFF00FC0F) = o` with o ≤ 0x9, and
its fields are read from CMD[3:0], CMD[9:4] and CMD[23:16]. -/
def Obligations.LegalWordMatchAndMask : Prop :=
  ∀ (w : Word) (o : Nat),
    ((∃ i, decode w = .ok i ∧ i.opcode = o) ↔ (w &&& 0xFF00FC0F#32).toNat = o ∧ o ≤ 0x9) ∧
      ∀ i, decode w = .ok i → i.opcode = (w.extractLsb' 0 4).toNat ∧
        i.cidr = (w.extractLsb' 4 6).toNat ∧ i.table = (w.extractLsb' 16 8).toNat

/-- Words of vector L2-4 of 95_test_vectors.md decode as the vector says. -/
def Obligations.VectorWordsDecode : Prop :=
  decode 0x00000000#32 = .ok (.nop 0 0) ∧ decode 0x00000181#32 = .ok (.add 24 0) ∧
    decode 0x00000201#32 = .ok (.add 32 0) ∧ decode 0x00000282#32 = .ok (.lookup 40 0) ∧
    decode 0x00000183#32 = .ok (.delete 24 0) ∧ decode 0x00010008#32 = .ok (.release 0 1) ∧
    decode 0x00010009#32 = .ok (.create 0 1) ∧ decode 0xFF00000F#32 = .error .badOp ∧
    decode 0x01000001#32 = .error .badCmd

/-- R83, R84: a word with a reserved OP completes with BAD_OP whatever its other bits, and a word with a
defined OP and a reserved bit set completes with BAD_CMD; neither has any other effect. It holds whenever
the engine's turn is next, whatever events follow (assumption 2). -/
def Obligations.IllegalWordsCompleteWithError : Prop :=
  ∀ (s : State) (L : Latch) (rest : List Event), s.engineNext rest → s.latch = some L →
    (0xA ≤ (L.cmd.extractLsb' 0 4).toNat →
        step s = .next ({ s with inputs := rest }.errorCompletion .badOp)) ∧
      ((L.cmd.extractLsb' 0 4).toNat < 0xA →
        (L.cmd.extractLsb' 10 6 ≠ 0 ∨ L.cmd.extractLsb' 24 8 ≠ 0) →
        step s = .next ({ s with inputs := rest }.errorCompletion .badCmd))

/-! ## Addressing (41_route_ops.md section 1) -/

/-- R100: the bits of the group value, for every key and every depth 0..10. -/
def Obligations.GroupValueBits : Prop :=
  ∀ (a : Key) (d : Nat),
    (d ≤ 9 → ∀ j, j < 3 → (group a d).val.testBit j = a.getLsbD (29 - 3 * d + j)) ∧
      (group a 10).val.testBit 0 = false ∧ (group a 10).val.testBit 1 = a.getLsbD 0 ∧
      (group a 10).val.testBit 2 = a.getLsbD 1

/-- R101: slot(k, v) = (2^k - 1) + v is a bijection between the pairs (k, v) and 0..14 that preserves the
order "k ascending, then v ascending", with the inverse the rule gives. -/
def Obligations.SlotIndexBijection : Prop :=
  (∀ k v, k ≤ 3 → v < 2 ^ k → (slotIndex k v).val = (2 ^ k - 1) + v ∧
      slotK (slotIndex k v) = k ∧ slotV (slotIndex k v) = v) ∧
    (∀ s : Fin 15, slotIndex (slotK s) (slotV s) = s ∧ slotK s = Nat.log2 (s.val + 1) ∧
      slotV s = s.val + 1 - 2 ^ slotK s ∧ slotK s ≤ 3 ∧ slotV s < 2 ^ slotK s) ∧
    (∀ k v k' v', k ≤ 3 → k' ≤ 3 → v < 2 ^ k → v' < 2 ^ k' → (k < k' ∨ k = k' ∧ v < v') →
      (slotIndex k v).val < (slotIndex k' v').val)

/-- R102: the boundary of a prefix of length c in 0..32. -/
def Obligations.BoundaryOfPrefix : Prop :=
  ∀ (a : Key) (c : Nat), c ≤ 32 →
    (boundary a c).depth = c / 3 ∧ (boundary a c).k = c % 3 ∧ (boundary a c).g = group a (c / 3) ∧
      (boundary a c).v = (group a (c / 3)).val >>> (3 - c % 3) ∧ (c % 3 = 0 → (boundary a c).v = 0) ∧
      (boundary a c).slot.val = (2 ^ (c % 3) - 1) + (boundary a c).v ∧
      (boundary a c).slot.val ≤ 6 ∧ (boundary a c).depth ≤ 10

/-- R105: the canonical prefix mask(a, c); the boundary and the path depend only on it and c; the prefix
of the named slot is (mask(a, c), c); and every slot 0..6 of every node at depths 0..10 is the slot of
exactly one canonical prefix. -/
def Obligations.CanonicalPrefixBijection : Prop :=
  (∀ (a : Key) (c : Nat), c ≤ 32 →
    (∀ j, j < 32 → (maskKey a c).getLsbD j = (a.getLsbD j && decide (32 - c ≤ j))) ∧
      (∀ b : Key, maskKey a c = maskKey b c → (boundary a c).slot = (boundary b c).slot ∧
        ∀ d, d < c / 3 → group a d = group b d) ∧
      prefixAddr (c / 3) (a.toNat >>> (32 - 3 * (c / 3))) (boundary a c).slot = maskKey a c ∧
      prefixLen (c / 3) (boundary a c).slot = c) ∧
    (∀ (d p : Nat) (s : Fin 15), d ≤ 10 → p < 8 ^ d → s.val ≤ 6 →
      prefixLen d s ≤ 32 ∧
        maskKey (prefixAddr d p s) (prefixLen d s) = prefixAddr d p s ∧
        (boundary (prefixAddr d p s) (prefixLen d s)).depth = d ∧
        (boundary (prefixAddr d p s) (prefixLen d s)).slot = s ∧
        (prefixAddr d p s).toNat >>> (32 - 3 * d) = p)

/-- R105: the route stored for a prefix depends only on its canonical prefix and its length. -/
def Obligations.StoredRouteOfCanonicalPrefix : Prop :=
  ∀ (root : Node) (a b : Key) (c : Nat), c ≤ 32 → maskKey a c = maskKey b c →
    storedAt root a c = storedAt root b c

/-! ## The step, the bus and the register file (10_state.md, 20_memory.md) -/

/-- R61: when it is the engine's turn and the command word in flight decodes to i, the step is exec of i
(with the event of the engine's turn taken from the stream, assumption 2), and i is well formed. -/
def Obligations.StepRunsDecodedCommand : Prop :=
  ∀ (s : State) (L : Latch) (i : Instr), s.latch = some L → decode L.cmd = .ok i →
    i.wellFormed = true ∧ (s.inputs = [] → step s = exec i s) ∧
      ∀ rest, s.inputs = .engine :: rest → step s = exec i { s with inputs := rest }

/-- R60: a write of CMD while not busy is accepted, with exactly these changes, and no later write of any
register changes the latch. -/
def Obligations.AcceptanceOfCommand : Prop :=
  (∀ (s : State) (w : Word) (rest : List Event),
    s.inputs = .access (.write s.cfg.base 4 w) :: rest → s.latch = none →
    step s = .next { s with
      inputs := rest, cmd := w, done := false
      latch := some { cmd := w, addr := s.addr, payload := s.payloadIn } }) ∧
    ∀ (s : State) (L : Latch) (v : Word) (r : Reg), s.latch = some L → (s.writeReg v r).latch = some L

/-- R62: a CMD write while busy is dropped and sets OVERRUN, and OVERRUN stays 1 until the host writes 1
to STATUS bit 3 (or the block is reset). -/
def Obligations.OverrunIsSticky : Prop :=
  (∀ (s : State) (L : Latch) (w : Word) (rest : List Event),
    s.inputs = .access (.write s.cfg.base 4 w) :: rest → s.latch = some L →
    step s = .next { s with inputs := rest, overrun := true }) ∧
    ∀ s s' : State, s.overrun = true → step s = .next s' → s'.overrun = false →
      (∃ (v : Word) (rest : List Event),
        s.inputs = .access (.write (s.cfg.base + 4) 4 v) :: rest ∧ v.getLsbD 3 = true) ∨
      ∃ rest, s.inputs = .reset :: rest

/-- R29, R180: the fields of the STATUS word, the number of every error code, and what a write of STATUS
changes. -/
def Obligations.StatusWordAndWriteOneToClear : Prop :=
  (ErrCode.ok.code = 0#4 ∧ ErrCode.badOp.code = 1#4 ∧ ErrCode.badCmd.code = 2#4 ∧
    ErrCode.badTable.code = 3#4 ∧ ErrCode.released.code = 4#4 ∧ ErrCode.badCidr.code = 5#4 ∧
    ErrCode.enumInvalid.code = 6#4 ∧ ErrCode.nomem.code = 7#4) ∧
  ∀ (s : State) (v : Word),
    (s.readReg .status).getLsbD 0 = s.latch.isSome ∧ (s.readReg .status).getLsbD 1 = s.done ∧
      (s.readReg .status).getLsbD 2 = s.res ∧ (s.readReg .status).getLsbD 3 = s.overrun ∧
      (s.readReg .status).extractLsb' 4 4 = s.err.code ∧ (s.readReg .status).extractLsb' 8 24 = 0 ∧
      s.writeReg v .status =
        { s with done := s.done && !v.getLsbD 1, overrun := s.overrun && !v.getLsbD 3 }

/-- R27: the register at every offset of the map, and the step of a served host access: a write reaches
the register at its offset, a read drives that register's value and changes nothing else (R56,
assumption 3). -/
def Obligations.HostAccessReachesRegister : Prop :=
  (∀ cfg : Config,
    regAt cfg 0x000 = .cmd ∧ regAt cfg 0x004 = .status ∧ regAt cfg 0x008 = .ctrl ∧
      regAt cfg 0x00C = .addr ∧ regAt cfg 0x010 = .resAddr ∧ regAt cfg 0x014 = .resCidr ∧
      regAt cfg 0x018 = .freeCblocks ∧ regAt cfg 0x01C = .freeSblocks ∧ regAt cfg 0x020 = .params ∧
      regAt cfg 0x024 = .capCblocks ∧ regAt cfg 0x028 = .capSblocks ∧
      (cfg.legal = true → ∀ i, i < payloadWords cfg →
        regAt cfg (0x100 + 4 * i) = .payloadIn i ∧ regAt cfg (0x200 + 4 * i) = .resPayload i)) ∧
  ∀ (s : State) (off : Nat) (rest : List Event), off < 0x400 → off % 4 = 0 →
    (∀ v, s.inputs = .access (.write (s.cfg.base + off) 4 v) :: rest →
      step s = .next ({ s with inputs := rest }.writeReg v (regAt s.cfg off))) ∧
    (s.inputs = .access (.read (s.cfg.base + off) 4) :: rest →
      step s = .next { s with inputs := rest, lastRead := some (s.readReg (regAt s.cfg off)) })

/-- R28, R30, R31, R33, R34: what CMD, CTRL, ADDR, RES_ADDR and RES_CIDR read, with RES_CIDR[31:6] and
CTRL[31:1] zero; and R32, R35, R55: bit b of PAYLOAD_IN[i] and of RES_PAYLOAD[i] is payload bit 32i + b,
zero from PAYLOAD_BITS up where the payloads are PAYLOAD_BITS wide (as `regInv` says of every state that a
run reaches). -/
def Obligations.HostReadsRegisterFields : Prop :=
  ∀ s : State,
    s.readReg .cmd = s.cmd ∧ s.readReg .addr = s.addr ∧ s.readReg .resAddr = s.resAddr ∧
      (s.readReg .ctrl).getLsbD 0 = s.irqEn ∧ (s.readReg .ctrl).extractLsb' 1 31 = 0 ∧
      (s.readReg .resCidr).extractLsb' 0 6 = s.resCidr ∧ (s.readReg .resCidr).extractLsb' 6 26 = 0 ∧
      ∀ i b, b < 32 →
        (s.readReg (.payloadIn i)).getLsbD b = s.payloadIn.getLsbD (32 * i + b) ∧
        (s.readReg (.resPayload i)).getLsbD b = s.resPayload.getLsbD (32 * i + b) ∧
        (payloadFits s.cfg.payloadBits s.payloadIn = true → s.cfg.payloadBits ≤ 32 * i + b →
          (s.readReg (.payloadIn i)).getLsbD b = false) ∧
        (payloadFits s.cfg.payloadBits s.resPayload = true → s.cfg.payloadBits ≤ 32 * i + b →
          (s.readReg (.resPayload i)).getLsbD b = false)

/-- R30, R31, R32: what CTRL, ADDR and PAYLOAD_IN read after they are written: CTRL keeps bit 0, ADDR all
32 bits, PAYLOAD_IN[i] the bits below PAYLOAD_BITS, and no other word of PAYLOAD_IN changes. -/
def Obligations.OperandRegistersReadBack : Prop :=
  ∀ (s : State) (v : Word) (i j b : Nat), s.cfg.legal = true →
    payloadFits s.cfg.payloadBits s.payloadIn = true → i < payloadWords s.cfg →
    j < payloadWords s.cfg → b < 32 →
    (s.writeReg v .ctrl).readReg .ctrl = v &&& 1#32 ∧ (s.writeReg v .addr).readReg .addr = v ∧
      ((s.writeReg v (.payloadIn i)).readReg (.payloadIn j)).getLsbD b =
        (if j = i then v.getLsbD b && decide (32 * i + b < s.cfg.payloadBits)
          else (s.readReg (.payloadIn j)).getLsbD b)

/-- R39: every offset of the window that rule R27 does not list reads 0 and ignores writes, PAYLOAD_IN[i]
and RES_PAYLOAD[i] with i ≥ PAYLOAD_WORDS among them. -/
def Obligations.UnmappedOffsetsReadZero : Prop :=
  ∀ (s : State) (off : Nat) (v : Word), off < 0x400 →
    ¬ (off ≤ 0x028 ∧ off % 4 = 0) →
    ¬ (0x100 ≤ off ∧ off < 0x100 + 4 * payloadWords s.cfg ∧ off % 4 = 0) →
    ¬ (0x200 ≤ off ∧ off < 0x200 + 4 * payloadWords s.cfg ∧ off % 4 = 0) →
    s.readReg (regAt s.cfg off) = 0 ∧ s.writeReg v (regAt s.cfg off) = s

/-- R27: the read-only registers RES_ADDR, RES_CIDR, RES_PAYLOAD, FREE_*, PARAMS and CAP_* ignore writes,
and a write of STATUS, CTRL, ADDR or PAYLOAD_IN leaves every table, both pool counts, CMD and every
result register as they were. -/
def Obligations.RegisterWriteFrame : Prop :=
  ∀ (s : State) (v : Word) (r : Reg), r ≠ .cmd →
    s.writeReg v r = { s with
      done := (s.writeReg v r).done, overrun := (s.writeReg v r).overrun
      irqEn := (s.writeReg v r).irqEn, addr := (s.writeReg v r).addr
      payloadIn := (s.writeReg v r).payloadIn } ∧
    (r ≠ .status → (s.writeReg v r).done = s.done ∧ (s.writeReg v r).overrun = s.overrun) ∧
    (r ≠ .ctrl → (s.writeReg v r).irqEn = s.irqEn) ∧ (r ≠ .addr → (s.writeReg v r).addr = s.addr) ∧
    ((∀ i, r ≠ .payloadIn i) → (s.writeReg v r).payloadIn = s.payloadIn)

/-- R52: an access of the window that is not 32 bits wide or not 4-byte aligned is refused, and a read or
write that is both is served. -/
def Obligations.OnlyAlignedWordAccesses : Prop :=
  ∀ (s : State) (off bytes : Nat) (v : Word) (rest : List Event), off < 0x400 →
    (s.inputs = .access (.read (s.cfg.base + off) bytes) :: rest ∨
      s.inputs = .access (.write (s.cfg.base + off) bytes v) :: rest) →
    (bytes ≠ 4 ∨ off % 4 ≠ 0 → step s = .refused .nonWordAccess) ∧
      (bytes = 4 → off % 4 = 0 → ∃ s', step s = .next s')

/-- R53: byte lane b of a word carries bits [8b+7 : 8b], lane 0 at the lowest byte address of the
register space, and the four lanes carry the word. -/
def Obligations.LittleEndianLanes : Prop :=
  ∀ (s : State) (w : Word) (off b j : Nat), b < 4 → j < 8 → off % 4 = 0 →
    (laneOf w b).getLsbD j = w.getLsbD (8 * b + j) ∧ wordOfLanes (lanesOf w) = some w ∧
      (s.regByte (off + b)).getLsbD j = (s.readReg (regAt s.cfg off)).getLsbD (8 * b + j)

/-- R36, R37, R38: the counters and constants as numbers, for legal parameters and pool accounting. -/
def Obligations.InformationRegistersRead : Prop :=
  ∀ s : State, s.paramInv = true → s.poolInv = true →
    (s.readReg .freeCblocks).toNat + s.usedC = s.cfg.cblockCap ∧
      (s.readReg .freeSblocks).toNat + s.usedS = s.cfg.sblockCap ∧
      ((s.readReg .params).extractLsb' 0 16).toNat = s.numTables ∧
      ((s.readReg .params).extractLsb' 16 16).toNat = s.cfg.payloadBits ∧
      (s.readReg .capCblocks).toNat = s.cfg.cblockCap ∧ (s.readReg .capSblocks).toNat = s.cfg.sblockCap

/-- R214, R29: host accesses change no result register, no table and no free count; only a completion
(or a reset) does. -/
def Obligations.ResultsHoldUntilCompletion : Prop :=
  ∀ (s s' : State) (a : Access) (rest : List Event), s.inputs = .access a :: rest →
    step s = .next s' →
    s'.res = s.res ∧ s'.err = s.err ∧ s'.resAddr = s.resAddr ∧ s'.resCidr = s.resCidr ∧
      s'.resPayload = s.resPayload ∧ s'.readReg .freeCblocks = s.readReg .freeCblocks ∧
      s'.readReg .freeSblocks = s.readReg .freeSblocks ∧ s'.tables = s.tables

/-- R190: IRQ is DONE and IRQ_EN; every completion raises it while IRQ_EN = 1; a write of 1 to DONE, an
acceptance and a write of 0 to IRQ_EN clear it. -/
def Obligations.InterruptIsLevel : Prop :=
  (∀ s : State, s.irq = (s.done && s.irqEn)) ∧
    (∀ (s s' : State) (rest : List Event), s.engineNext rest → s.busy = true → step s = .next s' →
      s'.irq = s.irqEn) ∧
    ∀ (s : State) (v : Word),
      (v.getLsbD 1 = true → (s.writeReg v .status).irq = false) ∧
        (s.busy = false → (s.writeReg v .cmd).irq = false) ∧
        (v.getLsbD 0 = false → (s.writeReg v .ctrl).irq = false)

/-- R198: when idle, the engine's turn changes no state of the block: only its event leaves the stream, if
there was one (assumption 2). -/
def Obligations.IdleBlockIsStill : Prop :=
  ∀ (s : State) (rest : List Event), s.engineNext rest → s.busy = false →
    step s = .next { s with inputs := rest }

/-- R41: the reset values, for every choice of the parameters. -/
def Obligations.ResetValues : Prop :=
  ∀ (cfg : Config) (n : Nat),
    (State.resetWith cfg n).tables =
        List.replicate n { live := true, root := .bare none, ecurValid := false, ecurPos := 0 } ∧
      (State.resetWith cfg n).usedC = 0 ∧ (State.resetWith cfg n).usedS = 0 ∧
      (State.resetWith cfg n).latch = none ∧ (State.resetWith cfg n).readReg .cmd = 0 ∧
      (State.resetWith cfg n).readReg .status = 0 ∧ (State.resetWith cfg n).readReg .ctrl = 0 ∧
      (State.resetWith cfg n).readReg .addr = 0 ∧ (State.resetWith cfg n).readReg .resAddr = 0 ∧
      (State.resetWith cfg n).readReg .resCidr = 0 ∧
      (∀ i, (State.resetWith cfg n).readReg (.payloadIn i) = 0 ∧
        (State.resetWith cfg n).readReg (.resPayload i) = 0) ∧
      (State.resetWith cfg n).readReg .freeCblocks = (State.resetWith cfg n).readReg .capCblocks ∧
      (State.resetWith cfg n).readReg .freeSblocks = (State.resetWith cfg n).readReg .capSblocks ∧
      (State.resetWith cfg n).readReg .capCblocks = BitVec.ofNat 32 cfg.cblockCap ∧
      (State.resetWith cfg n).readReg .capSblocks = BitVec.ofNat 32 cfg.sblockCap ∧
      (State.resetWith cfg n).irq = false

/-- R210: asserting the reset input puts every piece of the block's state into its reset value and
abandons a command in flight; the parameters and the stream of events remain (assumption 12). -/
def Obligations.ResetInputRestoresResetState : Prop :=
  ∀ (s : State) (rest : List Event), s.inputs = .reset :: rest →
    step s = .next { State.resetWith s.cfg s.tables.length with inputs := rest }

/-! ## Errors (60_exceptions.md) -/

/-- R181: a completion with ERR ≠ 0 leaves the state before the command, plus exactly these registers,
whatever events follow the engine's turn (`rest`, assumption 2). -/
def Obligations.ErrorHasNoOtherEffect : Prop :=
  ∀ (s s' : State) (rest : List Event), s.engineNext rest → s.busy = true → step s = .next s' →
    s'.err ≠ .ok →
    s' = { s with
      inputs := rest, err := s'.err, res := false, resAddr := 0, resCidr := 0, resPayload := 0
      latch := none, done := true }

/-- R182: the first check that fails, in the rule's order, gives the error, with no other effect; a
command that passes every check performs its rule, which is exec of the decoded command, and completes
with ERR = OK. It holds whatever events follow the engine's turn (`rest`, assumption 2). -/
def Obligations.ErrorIsFirstFailingCheck : Prop :=
  ∀ (s : State) (L : Latch) (rest : List Event), s.engineNext rest → s.latch = some L →
    (∀ e, s.commandError L = some e → step s = .next ({ s with inputs := rest }.errorCompletion e)) ∧
      (s.commandError L = none → ∃ i, decode L.cmd = .ok i ∧
        step s = exec i { s with inputs := rest } ∧
        (s.trieInv = true → ∃ s', step s = .next s' ∧ s'.err = .ok))

/-- R86: for every command except NOP, a TABLE at or above NUM_TABLES completes with BAD_TABLE and no
effect. -/
def Obligations.BadTableCompletion : Prop :=
  ∀ (s : State) (L : Latch) (i : Instr), s.latch = some L → i.opcode ≠ 0 → s.numTables ≤ i.table →
    exec i s = .next (s.errorCompletion .badTable)

/-- R183: on a released table the seven commands complete with RELEASED, RELEASE completes with OK and
RES = 0, and CREATE makes the table live. -/
def Obligations.ReleasedTableCommands : Prop :=
  ∀ (s : State) (L : Latch) (c t : Nat) (T : Table), s.latch = some L → s.tables[t]? = some T →
    T.live = false →
    (∀ i, i ∈ [Instr.add c t, .lookup c t, .delete c t, .cleanup c t, .clear c t, .enumStart c t,
        .enumNext c t] → exec i s = .next (s.errorCompletion .released)) ∧
      (∃ s', exec (.release c t) s = .next s' ∧ s'.err = .ok ∧ s'.res = false) ∧
      ∃ s' T', exec (.create c t) s = .next s' ∧ s'.tables[t]? = some T' ∧ T'.live = true

/-- R85, R182: on a created table, ADD and DELETE with a CIDR above 32 complete with BAD_CIDR and no
effect. -/
def Obligations.BadCidrCompletion : Prop :=
  ∀ (s : State) (L : Latch) (c t : Nat) (T : Table), s.latch = some L → s.tables[t]? = some T →
    T.live = true → 32 < c →
    exec (.add c t) s = .next (s.errorCompletion .badCidr) ∧
      exec (.delete c t) s = .next (s.errorCompletion .badCidr)

/-- R111, R185: ADD with a legal table and length completes with NOMEM, without any other effect, exactly
when the blocks it needs exceed a pool. -/
def Obligations.NomemExactlyWhenShort : Prop :=
  ∀ (s : State) (L : Latch) (c t : Nat) (T : Table), s.latch = some L → s.tables[t]? = some T →
    T.live = true → c ≤ 32 →
    ((s.cfg.cblockCap - s.usedC < (T.root.need L.addr (c / 3)).1 ∨
        s.cfg.sblockCap - s.usedS < (T.root.need L.addr (c / 3)).2) →
      exec (.add c t) s = .next (s.errorCompletion .nomem)) ∧
    (¬ (s.cfg.cblockCap - s.usedC < (T.root.need L.addr (c / 3)).1 ∨
        s.cfg.sblockCap - s.usedS < (T.root.need L.addr (c / 3)).2) →
      ∃ s', exec (.add c t) s = .next s' ∧ s'.err = .ok)

/-! ## Commands (41_route_ops.md, 42_table_ops.md) -/

/-- R175: NOP completes with every result 0 and changes nothing else. -/
def Obligations.NopCompletes : Prop :=
  ∀ (s : State) (L : Latch) (c t : Nat), s.latch = some L →
    exec (.nop c t) s = .next { s with
      err := .ok, res := false, resAddr := 0, resCidr := 0, resPayload := 0
      latch := none, done := true }

/-- R110, R129: ADD on a created table with the blocks it needs stores its payload under its prefix,
changes the route of no other prefix, takes exactly the counted blocks, and leaves every other piece of
state; RES says whether a route was replaced. -/
def Obligations.AddStoresRoute : Prop :=
  ∀ (s : State) (L : Latch) (c t : Nat) (T : Table), s.latch = some L → s.tables[t]? = some T →
    T.live = true → c ≤ 32 → T.root.legal s.cfg.payloadBits 0 = true →
    (T.root.need L.addr (c / 3)).1 ≤ s.cfg.cblockCap - s.usedC →
    (T.root.need L.addr (c / 3)).2 ≤ s.cfg.sblockCap - s.usedS →
    ∃ root',
      exec (.add c t) s = .next ({ s with
        tables := s.tables.set t { T with root := root', ecurValid := false }
        usedC := s.usedC + (T.root.need L.addr (c / 3)).1
        usedS := s.usedS + (T.root.need L.addr (c / 3)).2 }.okCompletion
          (storedAt T.root L.addr c).isSome 0) ∧
      ∀ (b : Key) (d : Nat), d ≤ 32 → storedAt root' b d =
        if d = c ∧ maskKey b c = maskKey L.addr c then some L.payload else storedAt T.root b d

/-- R112: the ADD laws. After a successful ADD the node of its boundary holds the payload at the
boundary's slot, every node on the path exists, no other slot of any node and no other table has changed,
and the pool counts grew by the counted blocks. -/
def Obligations.AddLaws : Prop :=
  ∀ (s s' : State) (L : Latch) (c t : Nat) (T : Table), s.latch = some L → s.tables[t]? = some T →
    T.root.legal s.cfg.payloadBits 0 = true → exec (.add c t) s = .next s' → s'.err = .ok →
    ∃ T', s'.tables[t]? = some T' ∧
      routeAt T'.root L.addr (c / 3) (boundary L.addr c).slot = some L.payload ∧
      (∀ d, d ≤ c / 3 → (T'.root.find L.addr d).isSome = true) ∧
      (∀ (b : Key) (d : Nat) (σ : Fin 15), d ≤ 10 →
        ¬ (d = c / 3 ∧ σ = (boundary L.addr c).slot ∧ maskKey b (3 * d) = maskKey L.addr (3 * d)) →
        routeAt T'.root b d σ = routeAt T.root b d σ) ∧
      (∀ u, u ≠ t → s'.tables[u]? = s.tables[u]?) ∧
      s'.usedC = s.usedC + (T.root.need L.addr (c / 3)).1 ∧
      s'.usedS = s.usedS + (T.root.need L.addr (c / 3)).2

/-- R116: LOOKUP returns the payload of the stored prefix that contains the key and is longest, or RES = 0
and the zero payload if none contains it; and it changes no table and no pool (R115). -/
def Obligations.LookupIsLongestPrefixMatch : Prop :=
  ∀ (s : State) (L : Latch) (c t : Nat) (T : Table), s.latch = some L → s.tables[t]? = some T →
    T.live = true → T.root.legal s.cfg.payloadBits 0 = true →
    ∃ m : Option Payload,
      exec (.lookup c t) s = .next (s.okCompletion m.isSome (m.getD 0)) ∧
      (∀ p, m = some p ↔ ∃ len, len ≤ 32 ∧ storedAt T.root L.addr len = some p ∧
        ∀ len', len < len' → len' ≤ 32 → storedAt T.root L.addr len' = none) ∧
      (m = none ↔ ∀ len, len ≤ 32 → storedAt T.root L.addr len = none)

/-- R120: DELETE on a created table removes the named prefix and no other, frees no block, and RES says
whether a route was there. -/
def Obligations.DeleteRemovesRoute : Prop :=
  ∀ (s : State) (L : Latch) (c t : Nat) (T : Table), s.latch = some L → s.tables[t]? = some T →
    T.live = true → c ≤ 32 →
    ∃ root',
      exec (.delete c t) s = .next ({ s with
        tables := s.tables.set t { T with root := root', ecurValid := false } }.okCompletion
          (storedAt T.root L.addr c).isSome 0) ∧
      (storedAt T.root L.addr c = none → root' = T.root) ∧
      ∀ (b : Key) (d : Nat), d ≤ 32 → storedAt root' b d =
        if d = c ∧ maskKey b c = maskKey L.addr c then none else storedAt T.root b d

/-- R140, R141, R142: CLEANUP on a created table: the CLEANUP laws (i) to (v), the blocks it returns to the
pools, and its frame. A node it leaves that is not the empty node stood there before and keeps its slot
block, also one whose smask is 0 (R140: only a dead node frees it). -/
def Obligations.CleanupReclaimsDeadSubtrees : Prop :=
  ∀ (s : State) (L : Latch) (c t : Nat) (T : Table), s.latch = some L → s.tables[t]? = some T →
    T.live = true → T.root.legal s.cfg.payloadBits 0 = true →
    ∃ (root' : Node) (dead : Bool) (fc fs : Nat),
      exec (.cleanup c t) s = .next ({ s with
        tables := s.tables.set t { T with root := root', ecurValid := false }
        usedC := s.usedC - fc
        usedS := s.usedS - fs }.okCompletion dead 0) ∧
      fc + root'.ownedC = T.root.ownedC ∧ fs + root'.ownedS = T.root.ownedS ∧
      root'.reclaimed = true ∧
      (∀ (b : Key) (d : Nat), d ≤ 32 → storedAt root' b d = storedAt T.root b d) ∧
      (dead = true ↔ ∀ (b : Key) (d : Nat), d ≤ 32 → storedAt T.root b d = none) ∧
      (dead = true → root' = .bare none) ∧
      ∀ (b : Key) (d : Nat) (n' : Node), d ≤ 10 → root'.find b d = some n' → n' ≠ .bare none →
        ∃ n, T.root.find b d = some n ∧ n'.sblk = n.sblk

/-- R150: CLEAR on a created table leaves the empty root and returns every owned block. -/
def Obligations.ClearEmptiesTable : Prop :=
  ∀ (s : State) (L : Latch) (c t : Nat) (T : Table), s.latch = some L → s.tables[t]? = some T →
    T.live = true →
    exec (.clear c t) s = .next ({ s with
      tables := s.tables.set t { T with root := .bare none, ecurValid := false }
      usedC := s.usedC - T.root.ownedC
      usedS := s.usedS - T.root.ownedS }.okCompletion false 0)

/-- R156: ENUM_START on a created table sets its cursor to the first element and changes nothing else. -/
def Obligations.EnumStartSetsCursor : Prop :=
  ∀ (s : State) (L : Latch) (c t : Nat) (T : Table), s.latch = some L → s.tables[t]? = some T →
    T.live = true →
    exec (.enumStart c t) s = .next ({ s with
      tables := s.tables.set t { T with ecurValid := true, ecurPos := 0 } }.okCompletion false 0)

/-- R157: ENUM_NEXT with a valid cursor returns the element at the cursor, a canonical prefix of length at
most 32, and advances; past the end it returns RES = 0 and changes no table. -/
def Obligations.EnumNextReturnsElement : Prop :=
  ∀ (s : State) (L : Latch) (c t : Nat) (T : Table), s.latch = some L → s.tables[t]? = some T →
    T.live = true → T.ecurValid = true → T.root.legal s.cfg.payloadBits 0 = true →
    (∀ e, T.root.enumAll[T.ecurPos]? = some e →
      e.cidr ≤ 32 ∧ maskKey e.addr e.cidr = e.addr ∧
      exec (.enumNext c t) s = .next { s with
        tables := s.tables.set t { T with ecurPos := T.ecurPos + 1 }
        err := .ok, res := true, resAddr := e.addr, resCidr := BitVec.ofNat 6 e.cidr
        resPayload := e.payload, latch := none, done := true }) ∧
      (T.root.enumAll.length ≤ T.ecurPos → exec (.enumNext c t) s = .next (s.okCompletion false 0))

/-- R170: RELEASE on a created table frees everything and releases it, with RES = 1; on a released table
it only clears the cursor, with RES = 0. -/
def Obligations.ReleaseFreesTable : Prop :=
  ∀ (s : State) (L : Latch) (c t : Nat) (T : Table), s.latch = some L → s.tables[t]? = some T →
    (T.live = true → exec (.release c t) s = .next ({ s with
      tables := s.tables.set t { T with live := false, root := .bare none, ecurValid := false }
      usedC := s.usedC - T.root.ownedC
      usedS := s.usedS - T.root.ownedS }.okCompletion true 0)) ∧
    (T.live = false → exec (.release c t) s = .next ({ s with
      tables := s.tables.set t { T with ecurValid := false } }.okCompletion false 0))

/-- R172: CREATE makes a released table live, with RES = 1; on a created table its routes stay and
RES = 0. -/
def Obligations.CreateMakesTableLive : Prop :=
  ∀ (s : State) (L : Latch) (c t : Nat) (T : Table), s.latch = some L → s.tables[t]? = some T →
    exec (.create c t) s = .next ({ s with
      tables := s.tables.set t { T with live := true, ecurValid := false } }.okCompletion
        (!T.live) 0)

/-- R176: after CLEAR or RELEASE of a created table the pool counts have fallen by exactly the blocks the
table owned, it owns none, and no other table is touched. -/
def Obligations.ReleaseLaws : Prop :=
  ∀ (s s' : State) (L : Latch) (c t : Nat) (T : Table) (i : Instr), s.latch = some L →
    s.poolInv = true → s.tables[t]? = some T → T.live = true → i ∈ [Instr.clear c t, .release c t] →
    exec i s = .next s' →
    s'.usedC + T.root.ownedC = s.usedC ∧ s'.usedS + T.root.ownedS = s.usedS ∧
      (∃ T', s'.tables[t]? = some T' ∧ T'.root.ownedC = 0 ∧ T'.root.ownedS = 0) ∧
      ∀ u, u ≠ t → s'.tables[u]? = s.tables[u]?

/-- R155: the enumeration sequence starts at the root with depth 0 and path 0; at every node come its own
occupied slots in ascending slot order, then its present children in ascending group order, each fully. The
sequence of a legal table holds exactly one triple per stored prefix, with that prefix's payload. -/
def Obligations.EnumerationIsComplete : Prop :=
  (∀ (n : Node) (d p : Nat), n.enumAll = n.entries 0 0 ∧
    n.entries d p = ownTriples n d p ++ childTriples n d p) ∧
  ∀ (bits : Nat) (root : Node), root.legal bits 0 = true →
    (∀ e : Entry, e ∈ root.enumAll ↔
      e.cidr ≤ 32 ∧ maskKey e.addr e.cidr = e.addr ∧ storedAt root e.addr e.cidr = some e.payload) ∧
    (root.enumAll.map fun e => (e.addr, e.cidr)).Nodup

/-- R158: a step after which a table's cursor is valid has not changed the table's trie; it leaves the
position, advances it by one, or starts at 0. -/
def Obligations.EnumerationIsStable : Prop :=
  ∀ (s s' : State) (t : Nat) (T' : Table), step s = .next s' → s'.tables[t]? = some T' →
    T'.ecurValid = true →
    ∃ T, s.tables[t]? = some T ∧ T'.root = T.root ∧ T'.live = T.live ∧
      (T'.ecurPos = 0 ∨ T.ecurValid = true ∧ (T'.ecurPos = T.ecurPos ∨ T'.ecurPos = T.ecurPos + 1))

/-- R160: which successful commands invalidate the cursor of their table, and which leave its validity
(ENUM_NEXT moves the position, R157, assumption 11). -/
def Obligations.CursorInvalidation : Prop :=
  ∀ (s s' : State) (c t u : Nat) (i : Instr) (T T' : Table), exec i s = .next s' →
    s.tables[u]? = some T → s'.tables[u]? = some T' →
    (s'.err = .ok → u = t → i ∈ [Instr.add c t, .delete c t, .cleanup c t, .clear c t, .release c t,
      .create c t] → T'.ecurValid = false) ∧
    (i ∈ [Instr.lookup c t, .enumNext c t, .nop c t] → T'.ecurValid = T.ecurValid) ∧
    (s'.err = .ok → u = t → i = .enumStart c t → T'.ecurValid = true ∧ T'.ecurPos = 0) ∧
    (u ≠ i.table ∨ s'.err ≠ .ok → T'.ecurValid = T.ecurValid ∧ T'.ecurPos = T.ecurPos)

/-- R11: tables are independent. A command for table t does not write T[u], and what it does is the same
whatever T[u] holds, for every u ≠ t. -/
def Obligations.TablesAreIndependent : Prop :=
  ∀ (i : Instr) (s : State) (u : Nat) (U : Table), u ≠ i.table →
    (∀ s', exec i s = .next s' → s'.tables[u]? = s.tables[u]? ∧
      exec i (s.setTable u U) = .next (s'.setTable u U)) ∧
    (∀ f, exec i s = .fault f → exec i (s.setTable u U) = .fault f)

/-- R61, R73: the frame of every command. A completion changes no parameter, no host-written register, no
OVERRUN, no event; it ends BUSY, sets DONE, and touches at most its own table, the pool counts and the
result registers. -/
def Obligations.CommandFrame : Prop :=
  ∀ (i : Instr) (s s' : State), exec i s = .next s' →
    s'.cfg = s.cfg ∧ s'.cmd = s.cmd ∧ s'.overrun = s.overrun ∧ s'.irqEn = s.irqEn ∧
      s'.addr = s.addr ∧ s'.payloadIn = s.payloadIn ∧ s'.inputs = s.inputs ∧
      s'.lastRead = s.lastRead ∧ s'.latch = none ∧ s'.done = true ∧
      s'.tables.length = s.tables.length ∧ ∀ u, u ≠ i.table → s'.tables[u]? = s.tables[u]?

/-- R125: after ADD of (a, c), LOOKUP of any key under the prefix returns its payload, unless a stored
prefix longer than c also contains the key. -/
def Obligations.AddThenLookup : Prop :=
  ∀ (s s' : State) (L L' : Latch) (c c' t : Nat) (T : Table), s.latch = some L →
    s.tables[t]? = some T → T.root.legal s.cfg.payloadBits 0 = true →
    payloadFits s.cfg.payloadBits L.payload = true →
    exec (.add c t) s = .next s' → s'.err = .ok → maskKey L'.addr c = maskKey L.addr c →
    (∀ d, c < d → d ≤ 32 → storedAt T.root L'.addr d = none) →
    ∃ s'', exec (.lookup c' t) { s' with latch := some L' } = .next s'' ∧ s''.err = .ok ∧
      s''.res = true ∧ s''.resPayload = L.payload

/-- R127: after DELETE of (a, c) with RES = 1, LOOKUP of a key covered by (a, c) and by no other stored
prefix returns RES = 0 and the zero payload. -/
def Obligations.DeleteThenLookup : Prop :=
  ∀ (s s' : State) (L L' : Latch) (c c' t : Nat) (T : Table), s.latch = some L →
    s.tables[t]? = some T → T.root.legal s.cfg.payloadBits 0 = true →
    exec (.delete c t) s = .next s' → s'.err = .ok → s'.res = true →
    maskKey L'.addr c = maskKey L.addr c →
    (∀ d, d ≠ c → d ≤ 32 → storedAt T.root L'.addr d = none) →
    ∃ s'', exec (.lookup c' t) { s' with latch := some L' } = .next s'' ∧ s''.err = .ok ∧
      s''.res = false ∧ s''.resPayload = 0

/-- R128: two ADDs of the same prefix. After the first succeeded, the second completes with OK and RES = 1
and allocates nothing; the table then stores the second payload for the prefix, its enumeration holds one
triple for the prefix, with the second payload, and LOOKUP of a key under the prefix that no longer stored
prefix contains returns the second payload. -/
def Obligations.InsertIsIdempotent : Prop :=
  ∀ (s s1 : State) (L L2 : Latch) (c t : Nat) (T : Table), s.latch = some L →
    s.tables[t]? = some T → T.root.legal s.cfg.payloadBits 0 = true →
    payloadFits s.cfg.payloadBits L.payload = true → payloadFits s.cfg.payloadBits L2.payload = true →
    maskKey L2.addr c = maskKey L.addr c → exec (.add c t) s = .next s1 → s1.err = .ok →
    ∃ s2 T2, exec (.add c t) { s1 with latch := some L2 } = .next s2 ∧
      s2.err = .ok ∧ s2.res = true ∧ s2.usedC = s1.usedC ∧ s2.usedS = s1.usedS ∧
      s2.tables[t]? = some T2 ∧ storedAt T2.root L.addr c = some L2.payload ∧
      (T2.root.enumAll.filter fun e => decide (e.addr = maskKey L.addr c ∧ e.cidr = c)) =
        [{ addr := maskKey L.addr c, cidr := c, payload := L2.payload }] ∧
      ∀ (L3 : Latch) (c' : Nat), maskKey L3.addr c = maskKey L.addr c →
        (∀ d, c < d → d ≤ 32 → storedAt T2.root L3.addr d = none) →
        ∃ s3, exec (.lookup c' t) { s2 with latch := some L3 } = .next s3 ∧ s3.err = .ok ∧
          s3.res = true ∧ s3.resPayload = L2.payload

/-! ## Invariants (10_state.md section 4) -/

/-- R41: a block after reset, with legal parameters, meets every invariant; so does `State.reset`. -/
def Obligations.ResetMeetsInvariants : Prop :=
  (∀ (cfg : Config) (n : Nat), cfg.legal = true → 1 ≤ n → n ≤ 256 →
    (State.resetWith cfg n).inv = true) ∧ State.reset.inv = true

/-- R12, R15, R19, R20, R22: every step keeps the trie invariants of every table. -/
def Obligations.StepKeepsTrieInvariants : Prop :=
  ∀ s s' : State, s.trieInv = true → latchFits s.cfg.payloadBits s.latch = true →
    step s = .next s' → s'.trieInv = true

/-- R23: every step keeps the pool accounting: no block is leaked, and no count exceeds its capacity. -/
def Obligations.StepKeepsPoolAccounting : Prop :=
  ∀ s s' : State, s.trieInv = true → s.poolInv = true → step s = .next s' → s'.poolInv = true

/-- R29, R32, R34, R35, R181: every step keeps the register-file invariant. -/
def Obligations.StepKeepsRegisterInvariant : Prop :=
  ∀ s s' : State, s.trieInv = true → s.regInv = true → step s = .next s' → s'.regInv = true

/-- R5, R37, R38: no step changes a parameter or the number of tables. -/
def Obligations.StepKeepsParameters : Prop :=
  ∀ s s' : State, step s = .next s' → s'.cfg = s.cfg ∧ s'.numTables = s.numTables

/-- R186: the engine never halts or locks up. With the trie invariants no step ends in a fault, and only a
host access that the block does not serve (R50, R52) is refused. -/
def Obligations.EngineNeverHalts : Prop :=
  ∀ s : State, s.trieInv = true →
    (∀ f, step s ≠ .fault f) ∧
      ∀ r, step s = .refused r → ∃ e rest, s.inputs = e :: rest ∧ eventServed s.cfg e = false

/-- R220: a busy block completes in the next step if that is the engine's turn. In any case it completes
or is reset (R210) after at most one step per pending event and one more, and it completes if no reset is
pending (assumption 2: the stream is finite). -/
def Obligations.BusyBlockCompletes : Prop :=
  ∀ s : State, s.inv = true → s.busy = true → s.inputs.all (eventServed s.cfg) = true →
    (∀ rest, s.engineNext rest → ∃ s', step s = .next s' ∧ s'.busy = false ∧ s'.done = true) ∧
      ∃ k s', k ≤ s.inputs.length + 1 ∧ Host.Core.run Sys2Proof.core k s = .next s' ∧ s'.busy = false ∧
        (.reset ∉ s.inputs → s'.done = true)
end

