-- ==== Sys2Proof/Laws/State.lean ====
section
/-! SUPPORT. One lemma per field of State per update of State, each true by rfl, so that no later proof
unfolds a record update. -/

namespace Sys2Proof.Machine

variable (s : State)

/-! ### complete -/

@[simp] theorem State.complete_cfg (r : Result) : (s.complete r).cfg = s.cfg := rfl
@[simp] theorem State.complete_tables (r : Result) : (s.complete r).tables = s.tables := rfl
@[simp] theorem State.complete_usedC (r : Result) : (s.complete r).usedC = s.usedC := rfl
@[simp] theorem State.complete_usedS (r : Result) : (s.complete r).usedS = s.usedS := rfl
@[simp] theorem State.complete_cmd (r : Result) : (s.complete r).cmd = s.cmd := rfl
@[simp] theorem State.complete_latch (r : Result) : (s.complete r).latch = none := rfl
@[simp] theorem State.complete_done (r : Result) : (s.complete r).done = true := rfl
@[simp] theorem State.complete_res (r : Result) : (s.complete r).res = r.res := rfl
@[simp] theorem State.complete_overrun (r : Result) : (s.complete r).overrun = s.overrun := rfl
@[simp] theorem State.complete_err (r : Result) : (s.complete r).err = r.err := rfl
@[simp] theorem State.complete_irqEn (r : Result) : (s.complete r).irqEn = s.irqEn := rfl
@[simp] theorem State.complete_addr (r : Result) : (s.complete r).addr = s.addr := rfl
@[simp] theorem State.complete_payloadIn (r : Result) :
    (s.complete r).payloadIn = s.payloadIn := rfl
@[simp] theorem State.complete_resAddr (r : Result) : (s.complete r).resAddr = r.addr := rfl
@[simp] theorem State.complete_resCidr (r : Result) : (s.complete r).resCidr = r.cidr := rfl
@[simp] theorem State.complete_resPayload (r : Result) :
    (s.complete r).resPayload = r.payload := rfl
@[simp] theorem State.complete_inputs (r : Result) : (s.complete r).inputs = s.inputs := rfl
@[simp] theorem State.complete_lastRead (r : Result) : (s.complete r).lastRead = s.lastRead := rfl

/-! ### raise -/

@[simp] theorem State.raise_cfg (e : ErrCode) : (s.raise e).cfg = s.cfg := rfl
@[simp] theorem State.raise_tables (e : ErrCode) : (s.raise e).tables = s.tables := rfl
@[simp] theorem State.raise_usedC (e : ErrCode) : (s.raise e).usedC = s.usedC := rfl
@[simp] theorem State.raise_usedS (e : ErrCode) : (s.raise e).usedS = s.usedS := rfl
@[simp] theorem State.raise_cmd (e : ErrCode) : (s.raise e).cmd = s.cmd := rfl
@[simp] theorem State.raise_latch (e : ErrCode) : (s.raise e).latch = none := rfl
@[simp] theorem State.raise_done (e : ErrCode) : (s.raise e).done = true := rfl
@[simp] theorem State.raise_res (e : ErrCode) : (s.raise e).res = false := rfl
@[simp] theorem State.raise_overrun (e : ErrCode) : (s.raise e).overrun = s.overrun := rfl
@[simp] theorem State.raise_err (e : ErrCode) : (s.raise e).err = e := rfl
@[simp] theorem State.raise_irqEn (e : ErrCode) : (s.raise e).irqEn = s.irqEn := rfl
@[simp] theorem State.raise_addr (e : ErrCode) : (s.raise e).addr = s.addr := rfl
@[simp] theorem State.raise_payloadIn (e : ErrCode) : (s.raise e).payloadIn = s.payloadIn := rfl
@[simp] theorem State.raise_resAddr (e : ErrCode) : (s.raise e).resAddr = 0 := rfl
@[simp] theorem State.raise_resCidr (e : ErrCode) : (s.raise e).resCidr = 0 := rfl
@[simp] theorem State.raise_resPayload (e : ErrCode) : (s.raise e).resPayload = 0 := rfl
@[simp] theorem State.raise_inputs (e : ErrCode) : (s.raise e).inputs = s.inputs := rfl
@[simp] theorem State.raise_lastRead (e : ErrCode) : (s.raise e).lastRead = s.lastRead := rfl

/-! ### errorCompletion -/

@[simp] theorem State.errorCompletion_cfg (e : ErrCode) : (s.errorCompletion e).cfg = s.cfg := rfl
@[simp] theorem State.errorCompletion_tables (e : ErrCode) :
    (s.errorCompletion e).tables = s.tables := rfl
@[simp] theorem State.errorCompletion_usedC (e : ErrCode) :
    (s.errorCompletion e).usedC = s.usedC := rfl
@[simp] theorem State.errorCompletion_usedS (e : ErrCode) :
    (s.errorCompletion e).usedS = s.usedS := rfl
@[simp] theorem State.errorCompletion_cmd (e : ErrCode) : (s.errorCompletion e).cmd = s.cmd := rfl
@[simp] theorem State.errorCompletion_latch (e : ErrCode) :
    (s.errorCompletion e).latch = none := rfl
@[simp] theorem State.errorCompletion_done (e : ErrCode) : (s.errorCompletion e).done = true := rfl
@[simp] theorem State.errorCompletion_res (e : ErrCode) : (s.errorCompletion e).res = false := rfl
@[simp] theorem State.errorCompletion_overrun (e : ErrCode) :
    (s.errorCompletion e).overrun = s.overrun := rfl
@[simp] theorem State.errorCompletion_err (e : ErrCode) : (s.errorCompletion e).err = e := rfl
@[simp] theorem State.errorCompletion_irqEn (e : ErrCode) :
    (s.errorCompletion e).irqEn = s.irqEn := rfl
@[simp] theorem State.errorCompletion_addr (e : ErrCode) :
    (s.errorCompletion e).addr = s.addr := rfl
@[simp] theorem State.errorCompletion_payloadIn (e : ErrCode) :
    (s.errorCompletion e).payloadIn = s.payloadIn := rfl
@[simp] theorem State.errorCompletion_resAddr (e : ErrCode) :
    (s.errorCompletion e).resAddr = 0 := rfl
@[simp] theorem State.errorCompletion_resCidr (e : ErrCode) :
    (s.errorCompletion e).resCidr = 0 := rfl
@[simp] theorem State.errorCompletion_resPayload (e : ErrCode) :
    (s.errorCompletion e).resPayload = 0 := rfl
@[simp] theorem State.errorCompletion_inputs (e : ErrCode) :
    (s.errorCompletion e).inputs = s.inputs := rfl
@[simp] theorem State.errorCompletion_lastRead (e : ErrCode) :
    (s.errorCompletion e).lastRead = s.lastRead := rfl

/-! ### okCompletion -/

@[simp] theorem State.okCompletion_cfg (r : Bool) (p : Payload) :
    (s.okCompletion r p).cfg = s.cfg := rfl
@[simp] theorem State.okCompletion_tables (r : Bool) (p : Payload) :
    (s.okCompletion r p).tables = s.tables := rfl
@[simp] theorem State.okCompletion_usedC (r : Bool) (p : Payload) :
    (s.okCompletion r p).usedC = s.usedC := rfl
@[simp] theorem State.okCompletion_usedS (r : Bool) (p : Payload) :
    (s.okCompletion r p).usedS = s.usedS := rfl
@[simp] theorem State.okCompletion_cmd (r : Bool) (p : Payload) :
    (s.okCompletion r p).cmd = s.cmd := rfl
@[simp] theorem State.okCompletion_latch (r : Bool) (p : Payload) :
    (s.okCompletion r p).latch = none := rfl
@[simp] theorem State.okCompletion_done (r : Bool) (p : Payload) :
    (s.okCompletion r p).done = true := rfl
@[simp] theorem State.okCompletion_res (r : Bool) (p : Payload) :
    (s.okCompletion r p).res = r := rfl
@[simp] theorem State.okCompletion_overrun (r : Bool) (p : Payload) :
    (s.okCompletion r p).overrun = s.overrun := rfl
@[simp] theorem State.okCompletion_err (r : Bool) (p : Payload) :
    (s.okCompletion r p).err = .ok := rfl
@[simp] theorem State.okCompletion_irqEn (r : Bool) (p : Payload) :
    (s.okCompletion r p).irqEn = s.irqEn := rfl
@[simp] theorem State.okCompletion_addr (r : Bool) (p : Payload) :
    (s.okCompletion r p).addr = s.addr := rfl
@[simp] theorem State.okCompletion_payloadIn (r : Bool) (p : Payload) :
    (s.okCompletion r p).payloadIn = s.payloadIn := rfl
@[simp] theorem State.okCompletion_resAddr (r : Bool) (p : Payload) :
    (s.okCompletion r p).resAddr = 0 := rfl
@[simp] theorem State.okCompletion_resCidr (r : Bool) (p : Payload) :
    (s.okCompletion r p).resCidr = 0 := rfl
@[simp] theorem State.okCompletion_resPayload (r : Bool) (p : Payload) :
    (s.okCompletion r p).resPayload = p := rfl
@[simp] theorem State.okCompletion_inputs (r : Bool) (p : Payload) :
    (s.okCompletion r p).inputs = s.inputs := rfl
@[simp] theorem State.okCompletion_lastRead (r : Bool) (p : Payload) :
    (s.okCompletion r p).lastRead = s.lastRead := rfl

/-! ### accept -/

@[simp] theorem State.accept_cfg (w : Word) : (s.accept w).cfg = s.cfg := rfl
@[simp] theorem State.accept_tables (w : Word) : (s.accept w).tables = s.tables := rfl
@[simp] theorem State.accept_usedC (w : Word) : (s.accept w).usedC = s.usedC := rfl
@[simp] theorem State.accept_usedS (w : Word) : (s.accept w).usedS = s.usedS := rfl
@[simp] theorem State.accept_cmd (w : Word) : (s.accept w).cmd = w := rfl
@[simp] theorem State.accept_latch (w : Word) :
    (s.accept w).latch = some { cmd := w, addr := s.addr, payload := s.payloadIn } := rfl
@[simp] theorem State.accept_done (w : Word) : (s.accept w).done = false := rfl
@[simp] theorem State.accept_res (w : Word) : (s.accept w).res = s.res := rfl
@[simp] theorem State.accept_overrun (w : Word) : (s.accept w).overrun = s.overrun := rfl
@[simp] theorem State.accept_err (w : Word) : (s.accept w).err = s.err := rfl
@[simp] theorem State.accept_irqEn (w : Word) : (s.accept w).irqEn = s.irqEn := rfl
@[simp] theorem State.accept_addr (w : Word) : (s.accept w).addr = s.addr := rfl
@[simp] theorem State.accept_payloadIn (w : Word) : (s.accept w).payloadIn = s.payloadIn := rfl
@[simp] theorem State.accept_resAddr (w : Word) : (s.accept w).resAddr = s.resAddr := rfl
@[simp] theorem State.accept_resCidr (w : Word) : (s.accept w).resCidr = s.resCidr := rfl
@[simp] theorem State.accept_resPayload (w : Word) : (s.accept w).resPayload = s.resPayload := rfl
@[simp] theorem State.accept_inputs (w : Word) : (s.accept w).inputs = s.inputs := rfl
@[simp] theorem State.accept_lastRead (w : Word) : (s.accept w).lastRead = s.lastRead := rfl

/-! ### dropCommand -/

@[simp] theorem State.dropCommand_cfg : s.dropCommand.cfg = s.cfg := rfl
@[simp] theorem State.dropCommand_tables : s.dropCommand.tables = s.tables := rfl
@[simp] theorem State.dropCommand_usedC : s.dropCommand.usedC = s.usedC := rfl
@[simp] theorem State.dropCommand_usedS : s.dropCommand.usedS = s.usedS := rfl
@[simp] theorem State.dropCommand_cmd : s.dropCommand.cmd = s.cmd := rfl
@[simp] theorem State.dropCommand_latch : s.dropCommand.latch = s.latch := rfl
@[simp] theorem State.dropCommand_done : s.dropCommand.done = s.done := rfl
@[simp] theorem State.dropCommand_res : s.dropCommand.res = s.res := rfl
@[simp] theorem State.dropCommand_overrun : s.dropCommand.overrun = true := rfl
@[simp] theorem State.dropCommand_err : s.dropCommand.err = s.err := rfl
@[simp] theorem State.dropCommand_irqEn : s.dropCommand.irqEn = s.irqEn := rfl
@[simp] theorem State.dropCommand_addr : s.dropCommand.addr = s.addr := rfl
@[simp] theorem State.dropCommand_payloadIn : s.dropCommand.payloadIn = s.payloadIn := rfl
@[simp] theorem State.dropCommand_resAddr : s.dropCommand.resAddr = s.resAddr := rfl
@[simp] theorem State.dropCommand_resCidr : s.dropCommand.resCidr = s.resCidr := rfl
@[simp] theorem State.dropCommand_resPayload : s.dropCommand.resPayload = s.resPayload := rfl
@[simp] theorem State.dropCommand_inputs : s.dropCommand.inputs = s.inputs := rfl
@[simp] theorem State.dropCommand_lastRead : s.dropCommand.lastRead = s.lastRead := rfl

/-! ### writeStatus -/

@[simp] theorem State.writeStatus_cfg (v : Word) : (s.writeStatus v).cfg = s.cfg := rfl
@[simp] theorem State.writeStatus_tables (v : Word) : (s.writeStatus v).tables = s.tables := rfl
@[simp] theorem State.writeStatus_usedC (v : Word) : (s.writeStatus v).usedC = s.usedC := rfl
@[simp] theorem State.writeStatus_usedS (v : Word) : (s.writeStatus v).usedS = s.usedS := rfl
@[simp] theorem State.writeStatus_cmd (v : Word) : (s.writeStatus v).cmd = s.cmd := rfl
@[simp] theorem State.writeStatus_latch (v : Word) : (s.writeStatus v).latch = s.latch := rfl
@[simp] theorem State.writeStatus_done (v : Word) :
    (s.writeStatus v).done = (s.done && !v.getLsbD 1) := rfl
@[simp] theorem State.writeStatus_res (v : Word) : (s.writeStatus v).res = s.res := rfl
@[simp] theorem State.writeStatus_overrun (v : Word) :
    (s.writeStatus v).overrun = (s.overrun && !v.getLsbD 3) := rfl
@[simp] theorem State.writeStatus_err (v : Word) : (s.writeStatus v).err = s.err := rfl
@[simp] theorem State.writeStatus_irqEn (v : Word) : (s.writeStatus v).irqEn = s.irqEn := rfl
@[simp] theorem State.writeStatus_addr (v : Word) : (s.writeStatus v).addr = s.addr := rfl
@[simp] theorem State.writeStatus_payloadIn (v : Word) :
    (s.writeStatus v).payloadIn = s.payloadIn := rfl
@[simp] theorem State.writeStatus_resAddr (v : Word) : (s.writeStatus v).resAddr = s.resAddr := rfl
@[simp] theorem State.writeStatus_resCidr (v : Word) : (s.writeStatus v).resCidr = s.resCidr := rfl
@[simp] theorem State.writeStatus_resPayload (v : Word) :
    (s.writeStatus v).resPayload = s.resPayload := rfl
@[simp] theorem State.writeStatus_inputs (v : Word) : (s.writeStatus v).inputs = s.inputs := rfl
@[simp] theorem State.writeStatus_lastRead (v : Word) :
    (s.writeStatus v).lastRead = s.lastRead := rfl

/-! ### setTable -/

@[simp] theorem State.setTable_cfg (t : Nat) (T : Table) : (s.setTable t T).cfg = s.cfg := rfl
@[simp] theorem State.setTable_tables (t : Nat) (T : Table) :
    (s.setTable t T).tables = s.tables.set t T := rfl
@[simp] theorem State.setTable_usedC (t : Nat) (T : Table) : (s.setTable t T).usedC = s.usedC := rfl
@[simp] theorem State.setTable_usedS (t : Nat) (T : Table) : (s.setTable t T).usedS = s.usedS := rfl
@[simp] theorem State.setTable_cmd (t : Nat) (T : Table) : (s.setTable t T).cmd = s.cmd := rfl
@[simp] theorem State.setTable_latch (t : Nat) (T : Table) : (s.setTable t T).latch = s.latch := rfl
@[simp] theorem State.setTable_done (t : Nat) (T : Table) : (s.setTable t T).done = s.done := rfl
@[simp] theorem State.setTable_res (t : Nat) (T : Table) : (s.setTable t T).res = s.res := rfl
@[simp] theorem State.setTable_overrun (t : Nat) (T : Table) :
    (s.setTable t T).overrun = s.overrun := rfl
@[simp] theorem State.setTable_err (t : Nat) (T : Table) : (s.setTable t T).err = s.err := rfl
@[simp] theorem State.setTable_irqEn (t : Nat) (T : Table) : (s.setTable t T).irqEn = s.irqEn := rfl
@[simp] theorem State.setTable_addr (t : Nat) (T : Table) : (s.setTable t T).addr = s.addr := rfl
@[simp] theorem State.setTable_payloadIn (t : Nat) (T : Table) :
    (s.setTable t T).payloadIn = s.payloadIn := rfl
@[simp] theorem State.setTable_resAddr (t : Nat) (T : Table) :
    (s.setTable t T).resAddr = s.resAddr := rfl
@[simp] theorem State.setTable_resCidr (t : Nat) (T : Table) :
    (s.setTable t T).resCidr = s.resCidr := rfl
@[simp] theorem State.setTable_resPayload (t : Nat) (T : Table) :
    (s.setTable t T).resPayload = s.resPayload := rfl
@[simp] theorem State.setTable_inputs (t : Nat) (T : Table) :
    (s.setTable t T).inputs = s.inputs := rfl
@[simp] theorem State.setTable_lastRead (t : Nat) (T : Table) :
    (s.setTable t T).lastRead = s.lastRead := rfl

/-! ### allocate -/

@[simp] theorem State.allocate_cfg (nc ns : Nat) : (s.allocate nc ns).cfg = s.cfg := rfl
@[simp] theorem State.allocate_tables (nc ns : Nat) : (s.allocate nc ns).tables = s.tables := rfl
@[simp] theorem State.allocate_usedC (nc ns : Nat) : (s.allocate nc ns).usedC = s.usedC + nc := rfl
@[simp] theorem State.allocate_usedS (nc ns : Nat) : (s.allocate nc ns).usedS = s.usedS + ns := rfl
@[simp] theorem State.allocate_cmd (nc ns : Nat) : (s.allocate nc ns).cmd = s.cmd := rfl
@[simp] theorem State.allocate_latch (nc ns : Nat) : (s.allocate nc ns).latch = s.latch := rfl
@[simp] theorem State.allocate_done (nc ns : Nat) : (s.allocate nc ns).done = s.done := rfl
@[simp] theorem State.allocate_res (nc ns : Nat) : (s.allocate nc ns).res = s.res := rfl
@[simp] theorem State.allocate_overrun (nc ns : Nat) : (s.allocate nc ns).overrun = s.overrun := rfl
@[simp] theorem State.allocate_err (nc ns : Nat) : (s.allocate nc ns).err = s.err := rfl
@[simp] theorem State.allocate_irqEn (nc ns : Nat) : (s.allocate nc ns).irqEn = s.irqEn := rfl
@[simp] theorem State.allocate_addr (nc ns : Nat) : (s.allocate nc ns).addr = s.addr := rfl
@[simp] theorem State.allocate_payloadIn (nc ns : Nat) :
    (s.allocate nc ns).payloadIn = s.payloadIn := rfl
@[simp] theorem State.allocate_resAddr (nc ns : Nat) : (s.allocate nc ns).resAddr = s.resAddr := rfl
@[simp] theorem State.allocate_resCidr (nc ns : Nat) : (s.allocate nc ns).resCidr = s.resCidr := rfl
@[simp] theorem State.allocate_resPayload (nc ns : Nat) :
    (s.allocate nc ns).resPayload = s.resPayload := rfl
@[simp] theorem State.allocate_inputs (nc ns : Nat) : (s.allocate nc ns).inputs = s.inputs := rfl
@[simp] theorem State.allocate_lastRead (nc ns : Nat) :
    (s.allocate nc ns).lastRead = s.lastRead := rfl

/-! ### free -/

@[simp] theorem State.free_cfg (nc ns : Nat) : (s.free nc ns).cfg = s.cfg := rfl
@[simp] theorem State.free_tables (nc ns : Nat) : (s.free nc ns).tables = s.tables := rfl
@[simp] theorem State.free_usedC (nc ns : Nat) : (s.free nc ns).usedC = s.usedC - nc := rfl
@[simp] theorem State.free_usedS (nc ns : Nat) : (s.free nc ns).usedS = s.usedS - ns := rfl
@[simp] theorem State.free_cmd (nc ns : Nat) : (s.free nc ns).cmd = s.cmd := rfl
@[simp] theorem State.free_latch (nc ns : Nat) : (s.free nc ns).latch = s.latch := rfl
@[simp] theorem State.free_done (nc ns : Nat) : (s.free nc ns).done = s.done := rfl
@[simp] theorem State.free_res (nc ns : Nat) : (s.free nc ns).res = s.res := rfl
@[simp] theorem State.free_overrun (nc ns : Nat) : (s.free nc ns).overrun = s.overrun := rfl
@[simp] theorem State.free_err (nc ns : Nat) : (s.free nc ns).err = s.err := rfl
@[simp] theorem State.free_irqEn (nc ns : Nat) : (s.free nc ns).irqEn = s.irqEn := rfl
@[simp] theorem State.free_addr (nc ns : Nat) : (s.free nc ns).addr = s.addr := rfl
@[simp] theorem State.free_payloadIn (nc ns : Nat) : (s.free nc ns).payloadIn = s.payloadIn := rfl
@[simp] theorem State.free_resAddr (nc ns : Nat) : (s.free nc ns).resAddr = s.resAddr := rfl
@[simp] theorem State.free_resCidr (nc ns : Nat) : (s.free nc ns).resCidr = s.resCidr := rfl
@[simp] theorem State.free_resPayload (nc ns : Nat) :
    (s.free nc ns).resPayload = s.resPayload := rfl
@[simp] theorem State.free_inputs (nc ns : Nat) : (s.free nc ns).inputs = s.inputs := rfl
@[simp] theorem State.free_lastRead (nc ns : Nat) : (s.free nc ns).lastRead = s.lastRead := rfl

/-! ### emptyTable -/

@[simp] theorem State.emptyTable_cfg (t : Nat) (T : Table) : (s.emptyTable t T).cfg = s.cfg := rfl
@[simp] theorem State.emptyTable_tables (t : Nat) (T : Table) :
    (s.emptyTable t T).tables = s.tables.set t (T.mutated .empty) := rfl
@[simp] theorem State.emptyTable_usedC (t : Nat) (T : Table) :
    (s.emptyTable t T).usedC = s.usedC - T.root.ownedC := rfl
@[simp] theorem State.emptyTable_usedS (t : Nat) (T : Table) :
    (s.emptyTable t T).usedS = s.usedS - T.root.ownedS := rfl
@[simp] theorem State.emptyTable_cmd (t : Nat) (T : Table) : (s.emptyTable t T).cmd = s.cmd := rfl
@[simp] theorem State.emptyTable_latch (t : Nat) (T : Table) :
    (s.emptyTable t T).latch = s.latch := rfl
@[simp] theorem State.emptyTable_done (t : Nat) (T : Table) :
    (s.emptyTable t T).done = s.done := rfl
@[simp] theorem State.emptyTable_res (t : Nat) (T : Table) : (s.emptyTable t T).res = s.res := rfl
@[simp] theorem State.emptyTable_overrun (t : Nat) (T : Table) :
    (s.emptyTable t T).overrun = s.overrun := rfl
@[simp] theorem State.emptyTable_err (t : Nat) (T : Table) : (s.emptyTable t T).err = s.err := rfl
@[simp] theorem State.emptyTable_irqEn (t : Nat) (T : Table) :
    (s.emptyTable t T).irqEn = s.irqEn := rfl
@[simp] theorem State.emptyTable_addr (t : Nat) (T : Table) :
    (s.emptyTable t T).addr = s.addr := rfl
@[simp] theorem State.emptyTable_payloadIn (t : Nat) (T : Table) :
    (s.emptyTable t T).payloadIn = s.payloadIn := rfl
@[simp] theorem State.emptyTable_resAddr (t : Nat) (T : Table) :
    (s.emptyTable t T).resAddr = s.resAddr := rfl
@[simp] theorem State.emptyTable_resCidr (t : Nat) (T : Table) :
    (s.emptyTable t T).resCidr = s.resCidr := rfl
@[simp] theorem State.emptyTable_resPayload (t : Nat) (T : Table) :
    (s.emptyTable t T).resPayload = s.resPayload := rfl
@[simp] theorem State.emptyTable_inputs (t : Nat) (T : Table) :
    (s.emptyTable t T).inputs = s.inputs := rfl
@[simp] theorem State.emptyTable_lastRead (t : Nat) (T : Table) :
    (s.emptyTable t T).lastRead = s.lastRead := rfl

/-! ### inFlight -/

@[simp] theorem State.inFlight_cfg (w : Word) : (s.inFlight w).cfg = s.cfg := rfl
@[simp] theorem State.inFlight_tables (w : Word) : (s.inFlight w).tables = s.tables := rfl
@[simp] theorem State.inFlight_usedC (w : Word) : (s.inFlight w).usedC = s.usedC := rfl
@[simp] theorem State.inFlight_usedS (w : Word) : (s.inFlight w).usedS = s.usedS := rfl
@[simp] theorem State.inFlight_cmd (w : Word) : (s.inFlight w).cmd = w := rfl
@[simp] theorem State.inFlight_latch (w : Word) :
    (s.inFlight w).latch = some { cmd := w, addr := s.addr, payload := s.payloadIn } := rfl
@[simp] theorem State.inFlight_done (w : Word) : (s.inFlight w).done = false := rfl
@[simp] theorem State.inFlight_res (w : Word) : (s.inFlight w).res = s.res := rfl
@[simp] theorem State.inFlight_overrun (w : Word) : (s.inFlight w).overrun = s.overrun := rfl
@[simp] theorem State.inFlight_err (w : Word) : (s.inFlight w).err = s.err := rfl
@[simp] theorem State.inFlight_irqEn (w : Word) : (s.inFlight w).irqEn = s.irqEn := rfl
@[simp] theorem State.inFlight_addr (w : Word) : (s.inFlight w).addr = s.addr := rfl
@[simp] theorem State.inFlight_payloadIn (w : Word) : (s.inFlight w).payloadIn = s.payloadIn := rfl
@[simp] theorem State.inFlight_resAddr (w : Word) : (s.inFlight w).resAddr = s.resAddr := rfl
@[simp] theorem State.inFlight_resCidr (w : Word) : (s.inFlight w).resCidr = s.resCidr := rfl
@[simp] theorem State.inFlight_resPayload (w : Word) :
    (s.inFlight w).resPayload = s.resPayload := rfl
@[simp] theorem State.inFlight_inputs (w : Word) :
    (s.inFlight w).inputs = engineFirst s.inputs := rfl
@[simp] theorem State.inFlight_lastRead (w : Word) : (s.inFlight w).lastRead = s.lastRead := rfl

/-! ### afterReset -/

@[simp] theorem State.afterReset_cfg : s.afterReset.cfg = s.cfg := rfl
@[simp] theorem State.afterReset_tables :
    s.afterReset.tables = List.replicate s.numTables Table.fresh := rfl
@[simp] theorem State.afterReset_usedC : s.afterReset.usedC = 0 := rfl
@[simp] theorem State.afterReset_usedS : s.afterReset.usedS = 0 := rfl
@[simp] theorem State.afterReset_cmd : s.afterReset.cmd = 0 := rfl
@[simp] theorem State.afterReset_latch : s.afterReset.latch = none := rfl
@[simp] theorem State.afterReset_done : s.afterReset.done = false := rfl
@[simp] theorem State.afterReset_res : s.afterReset.res = false := rfl
@[simp] theorem State.afterReset_overrun : s.afterReset.overrun = false := rfl
@[simp] theorem State.afterReset_err : s.afterReset.err = .ok := rfl
@[simp] theorem State.afterReset_irqEn : s.afterReset.irqEn = false := rfl
@[simp] theorem State.afterReset_addr : s.afterReset.addr = 0 := rfl
@[simp] theorem State.afterReset_payloadIn : s.afterReset.payloadIn = 0 := rfl
@[simp] theorem State.afterReset_resAddr : s.afterReset.resAddr = 0 := rfl
@[simp] theorem State.afterReset_resCidr : s.afterReset.resCidr = 0 := rfl
@[simp] theorem State.afterReset_resPayload : s.afterReset.resPayload = 0 := rfl
@[simp] theorem State.afterReset_inputs : s.afterReset.inputs = s.inputs := rfl
@[simp] theorem State.afterReset_lastRead : s.afterReset.lastRead = none := rfl

end Sys2Proof.Machine
end

