-- ==== Sys2Proof/Laws/Ops.lean ====
section
/-! SUPPORT. For each shared operation, what it can do, said once: the node records, the checks of rule
R182, the bus, the engine's turn, and one inversion lemma per command. -/

namespace Sys2Proof.Machine

/-! ### Node records -/

@[simp] theorem Node.kid_setKid (b : Option SlotBlock) (m : BitVec 8) (k0 k1 k2 k3 k4 k5 k6 k7 k : Node)
    (g h : Fin 8) :
    ((Node.full b m k0 k1 k2 k3 k4 k5 k6 k7).setKid g k).kid h =
      if h = g then k else (Node.full b m k0 k1 k2 k3 k4 k5 k6 k7).kid h := by
  fin_cases g <;> fin_cases h <;> rfl

@[simp] theorem Node.cmask_setKid (n k : Node) (g : Fin 8) : (n.setKid g k).cmask = n.cmask := by
  cases n <;> [rfl; (fin_cases g <;> rfl)]

@[simp] theorem Node.sblk_setKid (n k : Node) (g : Fin 8) : (n.setKid g k).sblk = n.sblk := by
  cases n <;> [rfl; (fin_cases g <;> rfl)]

@[simp] theorem Node.calloc_setKid (n k : Node) (g : Fin 8) : (n.setKid g k).calloc = n.calloc := by
  cases n <;> [rfl; (fin_cases g <;> rfl)]

@[simp] theorem Node.kid_setCmaskBit (n : Node) (g h : Fin 8) : (n.setCmaskBit g).kid h = n.kid h := by
  cases n <;> rfl

@[simp] theorem Node.sblk_setCmaskBit (n : Node) (g : Fin 8) : (n.setCmaskBit g).sblk = n.sblk := by
  cases n <;> rfl

@[simp] theorem Node.calloc_setCmaskBit (n : Node) (g : Fin 8) :
    (n.setCmaskBit g).calloc = n.calloc := by cases n <;> rfl

/-- Setting a cmask bit of a node with a child block makes that child present and no other. -/
theorem Node.present_setCmaskBit (n : Node) (hn : n.calloc = true) (g h : Fin 8) :
    (n.setCmaskBit g).present h = (decide (h = g) || n.present h) := by
  cases n with
  | bare b => cases hn
  | full b m => fin_cases g <;> fin_cases h <;> simp [Node.setCmaskBit, Node.present, Node.cmask]

@[simp] theorem Node.present_setKid (n k : Node) (g h : Fin 8) :
    (n.setKid g k).present h = n.present h := by simp [Node.present]

@[simp] theorem Node.sblk_setSblk (n : Node) (b : Option SlotBlock) : (n.setSblk b).sblk = b := by
  cases n <;> rfl

@[simp] theorem Node.cmask_setSblk (n : Node) (b : Option SlotBlock) :
    (n.setSblk b).cmask = n.cmask := by cases n <;> rfl

@[simp] theorem Node.calloc_setSblk (n : Node) (b : Option SlotBlock) :
    (n.setSblk b).calloc = n.calloc := by cases n <;> rfl

@[simp] theorem Node.kid_setSblk (n : Node) (b : Option SlotBlock) (g : Fin 8) :
    (n.setSblk b).kid g = n.kid g := by cases n <;> rfl

@[simp] theorem Node.present_setSblk (n : Node) (b : Option SlotBlock) (g : Fin 8) :
    (n.setSblk b).present g = n.present g := by simp [Node.present]

@[simp] theorem Node.cmask_withChildBlock (n : Node) : n.withChildBlock.cmask = n.cmask := by
  cases n <;> rfl

@[simp] theorem Node.sblk_withChildBlock (n : Node) : n.withChildBlock.sblk = n.sblk := by
  cases n <;> rfl

@[simp] theorem Node.calloc_withChildBlock (n : Node) : n.withChildBlock.calloc = true := by
  cases n <;> rfl

@[simp] theorem Node.present_withChildBlock (n : Node) (g : Fin 8) :
    n.withChildBlock.present g = n.present g := by simp [Node.present]

@[simp] theorem Node.kid_withChildBlock (n : Node) (g : Fin 8) : n.withChildBlock.kid g = n.kid g := by
  cases n <;> [(fin_cases g <;> rfl); rfl]

/-- A present child lies in a child block (R15, R19). -/
theorem Node.calloc_of_present {n : Node} {g : Fin 8} (h : n.present g = true) : n.calloc = true := by
  cases n with
  | bare b => simp [Node.present, Node.cmask] at h
  | full => rfl

/-- Replacing and reading back a record of a node with a child block. -/
theorem Node.kid_setKid_of_calloc {n : Node} (hn : n.calloc = true) (k : Node) (g h : Fin 8) :
    (n.setKid g k).kid h = if h = g then k else n.kid h := by
  cases n with
  | bare b => cases hn
  | full => exact Node.kid_setKid ..

/-! ### Slot blocks -/

/-- A store occupies its slot and no other (R110, R112). -/
theorem SlotBlock.occupied_store (b : SlotBlock) (s t : Fin 15) (p : Payload) :
    (b.store s p).occupied t = (decide (t = s) || b.occupied t) := by
  fin_cases s <;> fin_cases t <;> simp [SlotBlock.store, SlotBlock.occupied]

/-- A store writes its slot and no other (R112). -/
theorem SlotBlock.get_store (b : SlotBlock) (s t : Fin 15) (p : Payload) :
    (b.store s p).slots.get t = if t = s then p else b.slots.get t := by
  simp only [SlotBlock.store, Vector.get_eq_getElem, Vector.getElem_set, Fin.ext_iff, eq_comm]

/-- Vacating a slot clears its bit and no other (R120). -/
theorem SlotBlock.occupied_vacate (b : SlotBlock) (s t : Fin 15) :
    (b.vacate s).occupied t = (!decide (t = s) && b.occupied t) := by
  fin_cases s <;> fin_cases t <;> simp [SlotBlock.vacate, SlotBlock.occupied]

/-- Vacating a slot leaves every payload in place, a stale one too (R16). -/
@[simp] theorem SlotBlock.slots_vacate (b : SlotBlock) (s : Fin 15) : (b.vacate s).slots = b.slots := rfl

@[simp] theorem SlotBlock.occupied_fresh (s : Fin 15) : SlotBlock.fresh.occupied s = false := by
  simp [SlotBlock.fresh, SlotBlock.occupied]

/-! ### Completions -/

theorem State.raise_eq (s : State) (e : ErrCode) : s.raise e = s.errorCompletion e := rfl

theorem State.complete_flag (s : State) (r : Bool) : s.complete (Result.flag r) = s.okCompletion r 0 := rfl

theorem State.complete_withPayload (s : State) (r : Bool) (p : Payload) :
    s.complete (Result.withPayload r p) = s.okCompletion r p := rfl

/-! ### The checks of R182 -/

@[simp] theorem withLatch_some {s : State} {L : Latch} (h : s.latch = some L)
    (k : Latch → Host.Outcome State Fault Refusal) : withLatch s k = k L := by simp [withLatch, h]

theorem withLatch_next {s s' : State} {k : Latch → Host.Outcome State Fault Refusal}
    (h : withLatch s k = .next s') : ∃ L, s.latch = some L ∧ k L = .next s' := by
  cases hl : s.latch with
  | none => simp [withLatch, hl] at h
  | some L => exact ⟨L, rfl, by simpa [withLatch, hl] using h⟩

theorem withTable_some {s : State} {t : Nat} {T : Table} (h : s.tables[t]? = some T)
    (k : Table → Host.Outcome State Fault Refusal) : withTable t s k = k T := by simp [withTable, h]

theorem withTable_none {s : State} {t : Nat} (h : s.tables[t]? = none)
    (k : Table → Host.Outcome State Fault Refusal) : withTable t s k = .next (s.raise .badTable) := by
  simp [withTable, h]

/-- Check 3 of R182 ends in BAD_TABLE or goes on with the table. -/
theorem withTable_next {s s' : State} {t : Nat} {k : Table → Host.Outcome State Fault Refusal}
    (h : withTable t s k = .next s') :
    (s.tables[t]? = none ∧ s' = s.raise .badTable) ∨ ∃ T, s.tables[t]? = some T ∧ k T = .next s' := by
  cases ht : s.tables[t]? with
  | none => rw [withTable_none ht] at h; cases h; exact .inl ⟨rfl, rfl⟩
  | some T => rw [withTable_some ht] at h; exact .inr ⟨T, rfl, h⟩

theorem withLiveTable_live {s : State} {t : Nat} {T : Table} (h : s.tables[t]? = some T)
    (hl : T.live = true) (k : Table → Host.Outcome State Fault Refusal) :
    withLiveTable t s k = k T := by simp [withLiveTable, withTable_some h, hl]

theorem withLiveTable_released {s : State} {t : Nat} {T : Table} (h : s.tables[t]? = some T)
    (hl : T.live = false) (k : Table → Host.Outcome State Fault Refusal) :
    withLiveTable t s k = .next (s.raise .released) := by simp [withLiveTable, withTable_some h, hl]

/-- Checks 3 and 4 of R182 end in BAD_TABLE, in RELEASED, or go on with a created table. -/
theorem withLiveTable_next {s s' : State} {t : Nat} {k : Table → Host.Outcome State Fault Refusal}
    (h : withLiveTable t s k = .next s') :
    (s.tables[t]? = none ∧ s' = s.raise .badTable) ∨
      (∃ T, s.tables[t]? = some T ∧ T.live = false ∧ s' = s.raise .released) ∨
      ∃ T, s.tables[t]? = some T ∧ T.live = true ∧ k T = .next s' := by
  rcases withTable_next h with h | ⟨T, ht, hk⟩
  · exact .inl h
  · cases hl : T.live with
    | false => simp [hl] at hk; exact .inr (.inl ⟨T, ht, hl, hk.symm⟩)
    | true => simp [hl] at hk; exact .inr (.inr ⟨T, ht, hl, hk⟩)

/-- Check 5 of R182 ends in BAD_CIDR or goes on. -/
theorem withCidr_next {s s' : State} {c : Nat} {k : Host.Outcome State Fault Refusal}
    (h : withCidr c s k = .next s') : (32 < c ∧ s' = s.raise .badCidr) ∨ (c ≤ 32 ∧ k = .next s') := by
  unfold withCidr at h
  split at h
  · cases h; exact .inl ⟨‹_›, rfl⟩
  · exact .inr ⟨by omega, h⟩

/-! ### One inversion lemma per command -/

/-- A command that needs a created table stopped at BAD_TABLE or RELEASED (checks 3 and 4 of R182). -/
def StoppedByTable (t : Nat) (s s' : State) : Prop :=
  (s.tables[t]? = none ∧ s' = s.raise .badTable) ∨
    ∃ T, s.tables[t]? = some T ∧ T.live = false ∧ s' = s.raise .released

theorem live_next {s s' : State} {t : Nat} {k : Latch → Table → Host.Outcome State Fault Refusal}
    (h : (withLatch s fun L => withLiveTable t s (k L)) = .next s') :
    ∃ L, s.latch = some L ∧ (StoppedByTable t s s' ∨
      ∃ T, s.tables[t]? = some T ∧ T.live = true ∧ k L T = .next s') := by
  obtain ⟨L, hL, h⟩ := withLatch_next h
  rcases withLiveTable_next h with h | h | h
  · exact ⟨L, hL, .inl (.inl h)⟩
  · exact ⟨L, hL, .inl (.inr h)⟩
  · exact ⟨L, hL, .inr h⟩

theorem execNop_next {c t : Nat} {s s' : State} (h : execNop c t s = .next s') :
    ∃ L, s.latch = some L ∧ s' = s.complete (Result.flag false) := by
  obtain ⟨L, hL, h⟩ := withLatch_next h
  cases h; exact ⟨L, hL, rfl⟩

theorem execAdd_next {c t : Nat} {s s' : State} (h : execAdd c t s = .next s') :
    ∃ L, s.latch = some L ∧ (StoppedByTable t s s' ∨ ∃ T, s.tables[t]? = some T ∧ T.live = true ∧
      ((32 < c ∧ s' = s.raise .badCidr) ∨
        (c ≤ 32 ∧ s.short (T.root.need L.addr (c / 3)) = true ∧ s' = s.raise .nomem) ∨
        (c ≤ 32 ∧ s.short (T.root.need L.addr (c / 3)) = false ∧
          s' = ((s.setTable t (T.mutated (T.root.insert L.addr c L.payload).node)).allocate
            (T.root.insert L.addr c L.payload).nc (T.root.insert L.addr c L.payload).ns).complete
              (Result.flag (T.root.insert L.addr c L.payload).replaced)))) := by
  obtain ⟨L, hL, h | ⟨T, hT, hl, h⟩⟩ := live_next h
  · exact ⟨L, hL, .inl h⟩
  · refine ⟨L, hL, .inr ⟨T, hT, hl, ?_⟩⟩
    rcases withCidr_next h with h | ⟨hc, h⟩
    · exact .inl h
    · cases hs : s.short (T.root.need L.addr (c / 3)) with
      | true => simp [hs] at h; exact .inr (.inl ⟨hc, rfl, h.symm⟩)
      | false => simp [hs] at h; exact .inr (.inr ⟨hc, rfl, h.symm⟩)

theorem execLookup_next {c t : Nat} {s s' : State} (h : execLookup c t s = .next s') :
    ∃ L, s.latch = some L ∧ (StoppedByTable t s s' ∨ ∃ T m, s.tables[t]? = some T ∧ T.live = true ∧
      T.root.lookup L.addr = .ok m ∧
      s' = s.complete (Result.withPayload m.isSome (m.getD 0))) := by
  obtain ⟨L, hL, h | ⟨T, hT, hl, h⟩⟩ := live_next h
  · exact ⟨L, hL, .inl h⟩
  · refine ⟨L, hL, .inr ⟨T, ?_⟩⟩
    split at h
    · cases h
    · cases h; exact ⟨none, hT, hl, ‹_›, rfl⟩
    · cases h; exact ⟨some _, hT, hl, ‹_›, rfl⟩

theorem execDelete_next {c t : Nat} {s s' : State} (h : execDelete c t s = .next s') :
    ∃ L, s.latch = some L ∧ (StoppedByTable t s s' ∨ ∃ T, s.tables[t]? = some T ∧ T.live = true ∧
      ((32 < c ∧ s' = s.raise .badCidr) ∨
        (c ≤ 32 ∧ s' = (s.setTable t (T.mutated ((T.root.remove L.addr c).getD T.root))).complete
          (Result.flag (T.root.remove L.addr c).isSome)))) := by
  obtain ⟨L, hL, h | ⟨T, hT, hl, h⟩⟩ := live_next h
  · exact ⟨L, hL, .inl h⟩
  · refine ⟨L, hL, .inr ⟨T, hT, hl, ?_⟩⟩
    rcases withCidr_next h with h | ⟨hc, h⟩
    · exact .inl h
    · refine .inr ⟨hc, ?_⟩
      split at h <;> cases h <;> simp [*]

theorem execCleanup_next {c t : Nat} {s s' : State} (h : execCleanup c t s = .next s') :
    ∃ L, s.latch = some L ∧ (StoppedByTable t s s' ∨ ∃ T, s.tables[t]? = some T ∧ T.live = true ∧
      s' = ((s.setTable t (T.mutated T.root.sweep.node)).free T.root.sweep.freedC
        T.root.sweep.freedS).complete (Result.flag T.root.sweep.dead)) := by
  obtain ⟨L, hL, h | ⟨T, hT, hl, h⟩⟩ := live_next h
  · exact ⟨L, hL, .inl h⟩
  · cases h; exact ⟨L, hL, .inr ⟨T, hT, hl, rfl⟩⟩

theorem execClear_next {c t : Nat} {s s' : State} (h : execClear c t s = .next s') :
    ∃ L, s.latch = some L ∧ (StoppedByTable t s s' ∨ ∃ T, s.tables[t]? = some T ∧ T.live = true ∧
      s' = (s.emptyTable t T).complete (Result.flag false)) := by
  obtain ⟨L, hL, h | ⟨T, hT, hl, h⟩⟩ := live_next h
  · exact ⟨L, hL, .inl h⟩
  · cases h; exact ⟨L, hL, .inr ⟨T, hT, hl, rfl⟩⟩

theorem execEnumStart_next {c t : Nat} {s s' : State} (h : execEnumStart c t s = .next s') :
    ∃ L, s.latch = some L ∧ (StoppedByTable t s s' ∨ ∃ T, s.tables[t]? = some T ∧ T.live = true ∧
      s' = (s.setTable t { T with ecurValid := true, ecurPos := 0 }).complete (Result.flag false)) := by
  obtain ⟨L, hL, h | ⟨T, hT, hl, h⟩⟩ := live_next h
  · exact ⟨L, hL, .inl h⟩
  · cases h; exact ⟨L, hL, .inr ⟨T, hT, hl, rfl⟩⟩

theorem execEnumNext_next {c t : Nat} {s s' : State} (h : execEnumNext c t s = .next s') :
    ∃ L, s.latch = some L ∧ (StoppedByTable t s s' ∨ ∃ T, s.tables[t]? = some T ∧ T.live = true ∧
      ((T.ecurValid = false ∧ s' = s.raise .enumInvalid) ∨
        (T.ecurValid = true ∧ T.root.hasK3 = false ∧ T.root.enumAll[T.ecurPos]? = none ∧
          s' = s.complete (Result.flag false)) ∨
        ∃ e, T.ecurValid = true ∧ T.root.hasK3 = false ∧ T.root.enumAll[T.ecurPos]? = some e ∧
          s' = (s.setTable t { T with ecurPos := T.ecurPos + 1 }).complete (Result.triple e))) := by
  obtain ⟨L, hL, h | ⟨T, hT, hl, h⟩⟩ := live_next h
  · exact ⟨L, hL, .inl h⟩
  · refine ⟨L, hL, .inr ⟨T, hT, hl, ?_⟩⟩
    cases hv : T.ecurValid with
    | false => simp [hv] at h; exact .inl ⟨rfl, h.symm⟩
    | true =>
      cases hk : T.root.hasK3 with
      | true => simp [hv, hk] at h
      | false =>
        cases he : T.root.enumAll[T.ecurPos]? with
        | none => simp [hv, hk, he] at h; exact .inr (.inl ⟨rfl, rfl, rfl, h.symm⟩)
        | some e => simp [hv, hk, he] at h; exact .inr (.inr ⟨e, rfl, rfl, rfl, h.symm⟩)

theorem execRelease_next {c t : Nat} {s s' : State} (h : execRelease c t s = .next s') :
    ∃ L, s.latch = some L ∧ ((s.tables[t]? = none ∧ s' = s.raise .badTable) ∨
      ∃ T, s.tables[t]? = some T ∧
        ((T.live = true ∧
            s' = (s.emptyTable t { T with live := false }).complete (Result.flag true)) ∨
          (T.live = false ∧
            s' = (s.setTable t { T with ecurValid := false }).complete (Result.flag false)))) := by
  obtain ⟨L, hL, h⟩ := withLatch_next h
  rcases withTable_next h with h | ⟨T, hT, h⟩
  · exact ⟨L, hL, .inl h⟩
  · refine ⟨L, hL, .inr ⟨T, hT, ?_⟩⟩
    obtain ⟨live, root, v, p⟩ := T
    cases live
    · cases h; exact .inr ⟨rfl, rfl⟩
    · cases h; exact .inl ⟨rfl, rfl⟩

theorem execCreate_next {c t : Nat} {s s' : State} (h : execCreate c t s = .next s') :
    ∃ L, s.latch = some L ∧ ((s.tables[t]? = none ∧ s' = s.raise .badTable) ∨
      ∃ T, s.tables[t]? = some T ∧
        s' = (s.setTable t { T with live := true, ecurValid := false }).complete
          (Result.flag (!T.live))) := by
  obtain ⟨L, hL, h⟩ := withLatch_next h
  rcases withTable_next h with h | ⟨T, hT, h⟩
  · exact ⟨L, hL, .inl h⟩
  · refine ⟨L, hL, .inr ⟨T, hT, ?_⟩⟩
    obtain ⟨live, root, v, p⟩ := T
    cases live <;> (cases h; rfl)

/-! ### The bus, the engine's turn and the step -/

/-- A host access that is served: the offset it names, and what it does (R52, R56). -/
theorem hostAccess_next {a : Access} {s s' : State} (h : hostAccess a s = .next s') :
    (∃ address bytes off, a = .read address bytes ∧ accessOffset s.cfg address bytes = .ok off ∧
      s' = { s with lastRead := some (s.readReg (regAt s.cfg off)) }) ∨
    ∃ address bytes v off, a = .write address bytes v ∧
      accessOffset s.cfg address bytes = .ok off ∧ s' = s.writeReg v (regAt s.cfg off) := by
  cases a with
  | read address bytes =>
    cases ho : accessOffset s.cfg address bytes with
    | error r => simp [hostAccess, ho] at h
    | ok off => simp [hostAccess, ho] at h; exact .inl ⟨address, bytes, off, rfl, ho, h.symm⟩
  | write address bytes v =>
    cases ho : accessOffset s.cfg address bytes with
    | error r => simp [hostAccess, ho] at h
    | ok off => simp [hostAccess, ho] at h; exact .inr ⟨address, bytes, v, off, rfl, ho, h.symm⟩

/-- What the bus makes of an address: an aligned 32-bit access of the window gives its offset. -/
theorem accessOffset_ok {cfg : Config} {address bytes off : Nat}
    (h : accessOffset cfg address bytes = .ok off) :
    address = cfg.base + off ∧ off < 0x400 ∧ off % 4 = 0 ∧ bytes = 4 := by
  unfold accessOffset windowBytes at h
  by_cases h1 : address < cfg.base ∨ cfg.base + 0x400 ≤ address
  · rw [if_pos h1] at h; cases h
  · by_cases h2 : bytes ≠ 4 ∨ (address - cfg.base) % 4 ≠ 0
    · rw [if_neg h1, if_pos h2] at h; cases h
    · rw [if_neg h1, if_neg h2] at h
      cases h; omega

theorem accessOffset_aligned (cfg : Config) {off : Nat} (h : off < 0x400) (h4 : off % 4 = 0) :
    accessOffset cfg (cfg.base + off) 4 = .ok off := by
  simp [accessOffset, windowBytes, h, h4]

/-- The engine's turn: idle, an illegal word, or a command (R61, R198). -/
theorem engineTurn_cases (s : State) :
    (s.latch = none ∧ engineTurn s = .next s) ∨
      (∃ L x, s.latch = some L ∧ decode L.cmd = .error x ∧
        engineTurn s = .next (s.raise (illegalErr x))) ∨
      ∃ L i, s.latch = some L ∧ decode L.cmd = .ok i ∧ engineTurn s = exec i s := by
  cases hl : s.latch with
  | none => exact .inl ⟨rfl, by simp [engineTurn, State.fetched, hl]⟩
  | some L =>
    cases hd : decode L.cmd with
    | error x => exact .inr (.inl ⟨L, x, rfl, hd, by simp [engineTurn, State.fetched, hl, hd]⟩)
    | ok i => exact .inr (.inr ⟨L, i, rfl, hd, by simp [engineTurn, State.fetched, hl, hd]⟩)

/-- What a step is, by the head of the stream (R63, R220). -/
theorem step_cases (s : State) :
    (s.inputs = [] ∧ step s = engineTurn s) ∨
      (∃ a rest, s.inputs = .access a :: rest ∧ step s = hostAccess a { s with inputs := rest }) ∨
      (∃ rest, s.inputs = .engine :: rest ∧ step s = engineTurn { s with inputs := rest }) ∨
      ∃ rest, s.inputs = .reset :: rest ∧
        step s = .next (State.afterReset { s with inputs := rest }) := by
  unfold step
  split
  · exact .inl ⟨‹_›, rfl⟩
  · rename_i e rest h
    cases e with
    | access a => exact .inr (.inl ⟨a, rest, h, rfl⟩)
    | engine => exact .inr (.inr (.inl ⟨rest, h, rfl⟩))
    | reset => exact .inr (.inr (.inr ⟨rest, h, rfl⟩))

/-- Where the engine's turn is next, the step is that turn on the state with the events after it. -/
theorem step_of_engineNext {s : State} {rest : List Event} (h : s.engineNext rest) :
    step s = engineTurn { s with inputs := rest } := by
  obtain ⟨h, rfl⟩ | h := h
  · obtain ⟨⟩ := s; cases h; rfl
  · simp [step, h, handleEvent]

end Sys2Proof.Machine
end

