-- ==== Sys2Proof/Laws/PerInstr.lean ====
section
/-! SUPPORT. A family of per-instruction facts about the syntax: the encoding of every well-formed command
has both reserved fields 0 and its OP value in CMD[3:0] (rules R80, R81, R82). -/

namespace Sys2Proof.Laws

/-- The fixed bits of the row of spec/opcode_table.json: match and mask of R80. -/
def ReservedZero.Statement (i : Instr) : Prop :=
  i.wellFormed = true → encode i &&& 0xFF00FC0F#32 = BitVec.ofNat 32 i.opcode

/-- The fields of an encoding under the mask of R80: only OP is left. -/
theorem masked_fields (t : BitVec 8) (c : BitVec 6) (o : BitVec 4) :
    (t ++ 0#6 ++ c ++ o).setWidth 32 &&& 0xFF00FC0F#32 = o.setWidth 32 := by
  apply BitVec.eq_of_getLsbD_eq
  intro j hj
  simp only [BitVec.getLsbD_and, BitVec.getLsbD_setWidth, BitVec.getLsbD_append]
  interval_cases j <;> simp

theorem encode_masked (i : Instr) : encode i &&& 0xFF00FC0F#32 = (BitVec.ofNat 4 i.opcode).setWidth 32 :=
  masked_fields ..

theorem ReservedZero.nop (c t : Nat) : ReservedZero.Statement (.nop c t) := fun _ => encode_masked _
theorem ReservedZero.add (c t : Nat) : ReservedZero.Statement (.add c t) := fun _ => encode_masked _
theorem ReservedZero.lookup (c t : Nat) : ReservedZero.Statement (.lookup c t) :=
  fun _ => encode_masked _
theorem ReservedZero.delete (c t : Nat) : ReservedZero.Statement (.delete c t) :=
  fun _ => encode_masked _
theorem ReservedZero.cleanup (c t : Nat) : ReservedZero.Statement (.cleanup c t) :=
  fun _ => encode_masked _
theorem ReservedZero.clear (c t : Nat) : ReservedZero.Statement (.clear c t) := fun _ => encode_masked _
theorem ReservedZero.enumStart (c t : Nat) : ReservedZero.Statement (.enumStart c t) :=
  fun _ => encode_masked _
theorem ReservedZero.enumNext (c t : Nat) : ReservedZero.Statement (.enumNext c t) :=
  fun _ => encode_masked _
theorem ReservedZero.release (c t : Nat) : ReservedZero.Statement (.release c t) :=
  fun _ => encode_masked _
theorem ReservedZero.create (c t : Nat) : ReservedZero.Statement (.create c t) :=
  fun _ => encode_masked _

end Sys2Proof.Laws
end

