-- ==== Sys2Proof/Laws/Trie.lean ====
section
/-! SUPPORT. For each trie walk, one lemma per equation of its pseudocode, in the terms of node reads
(`present`, `kid`, `route`), so that later proofs do not unfold it (41_route_ops.md, 42_table_ops.md). -/

namespace Sys2Proof.Machine

/-! ### Reading routes -/

theorem Node.route_eq (n : Node) (s : Fin 15) :
    n.route s = n.sblk.bind fun b => if b.occupied s then some (b.slots.get s) else none := by
  cases h : n.sblk <;> simp [Node.route, h]

/-- A route depends only on the slot block. -/
theorem Node.route_congr {n m : Node} (h : n.sblk = m.sblk) (s : Fin 15) : n.route s = m.route s := by
  simp [Node.route_eq, h]

@[simp] theorem Node.route_setKid (n k : Node) (g : Fin 8) (s : Fin 15) :
    (n.setKid g k).route s = n.route s := Node.route_congr (by simp) s

@[simp] theorem Node.route_setCmaskBit (n : Node) (g : Fin 8) (s : Fin 15) :
    (n.setCmaskBit g).route s = n.route s := Node.route_congr (by simp) s

@[simp] theorem Node.route_withChildBlock (n : Node) (s : Fin 15) :
    n.withChildBlock.route s = n.route s := Node.route_congr (by simp) s

@[simp] theorem Node.route_empty (s : Fin 15) : Node.empty.route s = none := rfl

@[simp] theorem Node.present_empty (g : Fin 8) : Node.empty.present g = false := by
  simp [Node.empty, Node.present, Node.cmask]

/-! ### find (R103) -/

@[simp] theorem findFrom_zero (a : Key) (d : Nat) (n : Node) : findFrom a 0 d n = some n := rfl

theorem findFrom_succ (a : Key) (rem d : Nat) (n : Node) :
    findFrom a (rem + 1) d n =
      if n.present (group a d) then findFrom a rem (d + 1) (n.kid (group a d)) else none := rfl

/-- A walk of `r + q` steps is a walk of r steps and then one of q (R18). -/
theorem findFrom_add (a : Key) (r q d : Nat) (n : Node) :
    findFrom a (r + q) d n = (findFrom a r d n).bind (findFrom a q (d + r)) := by
  induction r generalizing d n with
  | zero => simp
  | succ r ih =>
    rw [Nat.add_right_comm, findFrom_succ, findFrom_succ]
    split
    · rw [ih]; congr 1; funext m; congr 1; omega
    · rfl

/-- A walk depends only on the groups it passes (R18). -/
theorem findFrom_congr {a b : Key} {rem d : Nat} (n : Node)
    (h : ∀ i, d ≤ i → i < d + rem → group a i = group b i) : findFrom a rem d n = findFrom b rem d n := by
  induction rem generalizing d n with
  | zero => rfl
  | succ rem ih =>
    rw [findFrom_succ, findFrom_succ, h d (by omega) (by omega)]
    split
    · exact ih _ fun i h1 h2 => h i (by omega) (by omega)
    · rfl

/-! ### Insertion (R110) -/

/-- Storing a route at a node writes its slot and no other (R110, R112). -/
theorem Node.route_storeRoute (n : Node) (s t : Fin 15) (p : Payload) :
    (n.storeRoute s p).node.route t = if t = s then some p else n.route t := by
  cases h : n.sblk <;> by_cases hts : t = s <;>
    simp [Node.storeRoute, Node.route_eq, h, SlotBlock.occupied_store, SlotBlock.get_store, hts]

/-- Storing a route replaces one iff the slot held one (R110). -/
theorem Node.replaced_storeRoute (n : Node) (s : Fin 15) (p : Payload) :
    (n.storeRoute s p).replaced = (n.route s).isSome := by
  cases h : n.sblk with
  | none => simp [Node.storeRoute, Node.route_eq, h]
  | some b => cases ho : b.occupied s <;> simp [Node.storeRoute, Node.route_eq, h, ho]

@[simp] theorem Node.cmask_storeRoute (n : Node) (s : Fin 15) (p : Payload) :
    (n.storeRoute s p).node.cmask = n.cmask := by cases h : n.sblk <;> simp [Node.storeRoute, h]

@[simp] theorem Node.present_storeRoute (n : Node) (s : Fin 15) (p : Payload) (g : Fin 8) :
    (n.storeRoute s p).node.present g = n.present g := by simp [Node.present]

@[simp] theorem Node.kid_storeRoute (n : Node) (s : Fin 15) (p : Payload) (g : Fin 8) :
    (n.storeRoute s p).node.kid g = n.kid g := by cases h : n.sblk <;> simp [Node.storeRoute, h]

/-- The counts of a store: no child block, and a slot block iff the node had none (R111). -/
theorem Node.counts_storeRoute (n : Node) (s : Fin 15) (p : Payload) :
    (n.storeRoute s p).nc = 0 ∧ (n.storeRoute s p).ns = if n.salloc then 0 else 1 := by
  cases h : n.sblk <;> simp [Node.storeRoute, Node.salloc, h]

section
variable (a : Key) (s : Fin 15) (p : Payload) (rem d : Nat) (n : Node)

@[simp] theorem insertFrom_zero : insertFrom a s p 0 d n = n.storeRoute s p := rfl

/-- The rest of the descent of ADD below a node at depth d (R110). -/
theorem insertFrom_succ_counts :
    (insertFrom a s p (rem + 1) d n).nc = (if n.calloc then 0 else 1) +
        (insertFrom a s p rem (d + 1) (n.kidOrEmpty (group a d))).nc ∧
      (insertFrom a s p (rem + 1) d n).ns =
        (insertFrom a s p rem (d + 1) (n.kidOrEmpty (group a d))).ns ∧
      (insertFrom a s p (rem + 1) d n).replaced =
        (insertFrom a s p rem (d + 1) (n.kidOrEmpty (group a d))).replaced := by
  have h : n.withChildBlock.kidOrEmpty (group a d) = n.kidOrEmpty (group a d) := by
    simp [Node.kidOrEmpty]
  simp [insertFrom, h]

/-- ADD's descent makes the child of its group present and no other (R110). -/
theorem insertFrom_succ_present (g : Fin 8) :
    (insertFrom a s p (rem + 1) d n).node.present g = (decide (g = group a d) || n.present g) := by
  simp [insertFrom, Node.present_setCmaskBit]

/-- ADD's descent changes the record of its group and no other (R110). -/
theorem insertFrom_succ_kid (g : Fin 8) :
    (insertFrom a s p (rem + 1) d n).node.kid g =
      if g = group a d then (insertFrom a s p rem (d + 1) (n.kidOrEmpty (group a d))).node
      else n.kid g := by
  have h : n.withChildBlock.kidOrEmpty (group a d) = n.kidOrEmpty (group a d) := by
    simp [Node.kidOrEmpty]
  simp [insertFrom, Node.kid_setKid_of_calloc, h]

/-- ADD's descent changes no slot of the nodes above the owner (R110, R112). -/
@[simp] theorem insertFrom_succ_route (t : Fin 15) :
    (insertFrom a s p (rem + 1) d n).node.route t = n.route t := by simp [insertFrom]

theorem insertFrom_succ_calloc : (insertFrom a s p (rem + 1) d n).node.calloc = true := by
  simp [insertFrom]

end

/-! ### Removal (R120) -/

/-- DELETE is "not found", or vacates the boundary's slot of the node that owns it. -/
theorem Node.remove_cases (root : Node) (a : Key) (c : Nat) :
    (root.remove a c = none ∧ storedAt root a c = none) ∨
      ∃ n b, root.find a (boundary a c).depth = some n ∧ n.sblk = some b ∧
        b.occupied (boundary a c).slot = true ∧
        storedAt root a c = some (b.slots.get (boundary a c).slot) ∧
        root.remove a c = some (replaceFrom a (n.setSblk (some (b.vacate (boundary a c).slot)))
          (boundary a c).depth 0 root) := by
  unfold Node.remove storedAt Node.route
  cases hf : root.find a (boundary a c).depth with
  | none => exact .inl ⟨rfl, rfl⟩
  | some n =>
    cases hb : n.sblk with
    | none => exact .inl ⟨by simp [hb], by simp [hb]⟩
    | some b =>
      cases ho : b.occupied (boundary a c).slot with
      | false => exact .inl ⟨by simp [hb, ho], by simp [hb, ho]⟩
      | true => exact .inr ⟨n, b, rfl, hb, ho, by simp [hb, ho], by simp [hb, ho]⟩

/-- Writing the end of a walk back changes the record of the key's group and no other. -/
theorem replaceFrom_succ (a : Key) (new : Node) (rem d : Nat) (n : Node)
    (hn : n.present (group a d) = true) (g : Fin 8) :
    (replaceFrom a new (rem + 1) d n).kid g =
      if g = group a d then replaceFrom a new rem (d + 1) (n.kid (group a d)) else n.kid g :=
  Node.kid_setKid_of_calloc (Node.calloc_of_present hn) ..

@[simp] theorem replaceFrom_succ_present (a : Key) (new : Node) (rem d : Nat) (n : Node) (g : Fin 8) :
    (replaceFrom a new (rem + 1) d n).present g = n.present g := by simp [replaceFrom]

@[simp] theorem replaceFrom_succ_route (a : Key) (new : Node) (rem d : Nat) (n : Node) (s : Fin 15) :
    (replaceFrom a new (rem + 1) d n).route s = n.route s := by simp [replaceFrom]

/-! ### LOOKUP (R115) -/

/-- The probes of a node: nothing occupied, the first occupied slot, or a k = 3 slot (assumption 6). -/
theorem probeNode_cases (n : Node) (g : Fin 8) (best : Option Payload) :
    ((∀ s ∈ probeOrder g, n.route s = none) ∧ probeNode n g best = .ok best) ∨
      ∃ s ∈ probeOrder g, (n.route s).isSome = true ∧
        ((isK3Slot s = true ∧ probeNode n g best = .error .k3SlotOccupied) ∨
          (isK3Slot s = false ∧ probeNode n g best = .ok (n.route s))) := by
  cases hf : (probeOrder g).find? (fun s => (n.route s).isSome) with
  | none =>
    refine .inl ⟨fun s hs => ?_, by simp [probeNode, hf]⟩
    simpa using List.find?_eq_none.mp hf s hs
  | some s =>
    refine .inr ⟨s, List.mem_of_find?_eq_some hf, by simpa using List.find?_some hf, ?_⟩
    cases hk : isK3Slot s <;> simp [probeNode, hf, hk]

theorem lookupFrom_zero (a : Key) (d : Nat) (best : Option Payload) (n : Node) :
    lookupFrom a 0 d best n = probeNode n (group a d) best := rfl

theorem lookupFrom_succ (a : Key) (rem d : Nat) (best best' : Option Payload) (n : Node)
    (h : probeNode n (group a d) best = .ok best') :
    lookupFrom a (rem + 1) d best n =
      if n.present (group a d) then lookupFrom a rem (d + 1) best' (n.kid (group a d))
      else .ok best' := by simp [lookupFrom, h]

/-! ### The sweep (R140) -/

/-- A swept node is dead iff it is the empty node. -/
theorem sweepBare_dead (b : Option SlotBlock) :
    (sweepBare b).dead = true ↔ (sweepBare b).node = .bare none := by
  unfold sweepBare; split
  · simp
  · split <;> simp

theorem finishSweep_dead (b : Option SlotBlock) (m : BitVec 8) (k0 k1 k2 k3 k4 k5 k6 k7 : Node)
    (fc fs : Nat) :
    (finishSweep b m k0 k1 k2 k3 k4 k5 k6 k7 fc fs).dead = true ↔
      (finishSweep b m k0 k1 k2 k3 k4 k5 k6 k7 fc fs).node = .bare none := by
  unfold finishSweep; split
  · split
    · simp
    · split <;> simp
  · simp

/-- After the pass a node is dead iff it is the empty node: it owns no block and no route (R140). -/
theorem Node.sweep_dead (n : Node) : n.sweep.dead = true ↔ n.sweep.node = .bare none := by
  cases n with
  | bare b => exact sweepBare_dead b
  | full => exact finishSweep_dead ..

/-- A node that the pass does not leave empty keeps its slot block (R140). -/
theorem Node.sblk_sweep (n : Node) (h : n.sweep.node ≠ .bare none) : n.sweep.node.sblk = n.sblk := by
  cases n with
  | bare b =>
    rcases b with _ | x
    · exact absurd rfl h
    · revert h; simp only [Node.sweep, sweepBare]; split <;> simp [Node.sblk]
  | full b m =>
    revert h; simp only [Node.sweep, finishSweep]; split
    · rcases b with _ | x
      · simp
      · by_cases hx : x.smask = 0#16 <;> simp [hx, Node.sblk]
    · simp [Node.sblk]

/-- A child that the pass leaves was there before, and its record is the swept one (R140). -/
theorem Node.kid_sweep (n : Node) (g : Fin 8) (h : n.sweep.node.present g = true) :
    n.present g = true ∧ n.sweep.node.kid g = (n.kid g).sweep.node := by
  cases n with
  | bare b =>
    rcases b with _ | x
    · simp [Node.sweep, sweepBare, Node.present, Node.cmask] at h
    · revert h; simp only [Node.sweep, sweepBare]; split <;> simp [Node.present, Node.cmask]
  | full b m k0 k1 k2 k3 k4 k5 k6 k7 =>
    revert h; simp only [Node.sweep, finishSweep]; split
    · rcases b with _ | x
      · simp [Node.present, Node.cmask]
      · by_cases hx : x.smask = 0#16 <;> simp [hx, Node.present, Node.cmask]
    · fin_cases g <;> simp [Node.present, Node.cmask, Node.kid, sweptKid] <;> intro h <;> simp_all

/-- Each record the pass leaves in a child block: swept if present, untouched else. -/
theorem sweptKid_eq (m : BitVec 8) (g : Nat) (k : Node) (r : Swept) :
    sweptKid m g k r = if m.getLsbD g then r.node else k := rfl

end Sys2Proof.Machine
end

