-- ==== Sys2Proof/Machine/Assembler.lean ====
section
/-! DEFINITION. The host's side in events: the primitives `wr`, `rd` and `wait`, and the expansion of
every command mnemonic into them (rules R54, R92, R93). -/

namespace Sys2Proof.Machine

/-- `wr OFF, V`: one 32-bit host write of V to offset OFF (R92). -/
def wr (cfg : Config) (off : Nat) (v : Word) : Event := .access (.write (cfg.base + off) 4 v)

/-- `rd OFF`: one 32-bit host read of offset OFF (R92). -/
def rd (cfg : Config) (off : Nat) : Event := .access (.read (cfg.base + off) 4)

/-- `wait`: the completion, then the STATUS read that sees it; the polls before it change nothing
(R56, R92; assumption 13). -/
def waitDone (cfg : Config) : List Event := [.engine, rd cfg 0x004]

/-- The key of a dotted quad, PRESUMED as the spec marks it (R54, R92; assumption 14). -/
def dottedQuad (a b c d : Nat) : Key := BitVec.ofNat 32 ((a <<< 24) ||| (b <<< 16) ||| (c <<< 8) ||| d)

/-- `wr CMD, enc(...); wait`. -/
def issue (cfg : Config) (i : Instr) : List Event := wr cfg 0x000 (encode i) :: waitDone cfg

/-- `wr PAYLOAD_IN[i], P_i` for i = 0..PAYLOAD_WORDS-1. -/
def writePayload (cfg : Config) (p : Payload) : List Event :=
  (List.range (payloadWords cfg)).map fun i => wr cfg (0x100 + 4 * i) (payloadWord p i)

/-- `nop` (R93). -/
def hostNop (cfg : Config) : List Event := issue cfg (.nop 0 0)

/-- `add t, A/c, P` (R93). -/
def hostAdd (cfg : Config) (t : Nat) (a : Key) (c : Nat) (p : Payload) : List Event :=
  writePayload cfg p ++ wr cfg 0x00C a :: issue cfg (.add c t)

/-- `lookup t, A` (R93). -/
def hostLookup (cfg : Config) (t : Nat) (a : Key) : List Event :=
  wr cfg 0x00C a :: issue cfg (.lookup 0 t)

/-- `delete t, A/c` (R93). -/
def hostDelete (cfg : Config) (t : Nat) (a : Key) (c : Nat) : List Event :=
  wr cfg 0x00C a :: issue cfg (.delete c t)

/-- `cleanup t` (R93). -/
def hostCleanup (cfg : Config) (t : Nat) : List Event := issue cfg (.cleanup 0 t)

/-- `clear t` (R93). -/
def hostClear (cfg : Config) (t : Nat) : List Event := issue cfg (.clear 0 t)

/-- `enum.start t` (R93). -/
def hostEnumStart (cfg : Config) (t : Nat) : List Event := issue cfg (.enumStart 0 t)

/-- `enum.next t` (R93). -/
def hostEnumNext (cfg : Config) (t : Nat) : List Event := issue cfg (.enumNext 0 t)

/-- `release t` (R93). -/
def hostRelease (cfg : Config) (t : Nat) : List Event := issue cfg (.release 0 t)

/-- `create t` (R93). -/
def hostCreate (cfg : Config) (t : Nat) : List Event := issue cfg (.create 0 t)

end Sys2Proof.Machine
end

