-- ==== Sys2Proof/Tests/Slice0.lean ====
section
/-! SUPPORT. The model's own tests: the WellFormed smoke, decoding of words written out from rule R80,
one-step tests of every command with expected results from 95_test_vectors.md, and a witness for the
hypotheses of every statement that has some. -/

namespace Sys2Proof.Tests

open Sys2Proof Sys2Proof.Machine

/-! ## WellFormed: an ill-formed term for each check -/

theorem test_wellFormed_refuses_cidr : (Instr.add 64 0).cidrFits = false := by decide

theorem test_wellFormed_refuses_table : (Instr.lookup 0 256).tableFits = false := by decide

theorem test_wellFormed_refuses : (Instr.add 64 0).wellFormed = false ∧
    (Instr.lookup 0 256).wellFormed = false ∧ (Instr.delete 63 255).wellFormed = true := by decide

/-! ## Decoding: `RRRRRRRR TTTTTTTT RRRRRR CCCCCC OOOO` (R80), one word per command -/

theorem test_decode_nop : decode 0b00000000_11111111_000000_000000_0000#32 = .ok (.nop 0 255) := by rfl
theorem test_decode_add : decode 0b00000000_00000000_000000_011000_0001#32 = .ok (.add 24 0) := by rfl
theorem test_decode_lookup :
    decode 0b00000000_00000010_000000_000000_0010#32 = .ok (.lookup 0 2) := by rfl
theorem test_decode_delete :
    decode 0b00000000_00000000_000000_011000_0011#32 = .ok (.delete 24 0) := by rfl
theorem test_decode_cleanup :
    decode 0b00000000_00000101_000000_000000_0100#32 = .ok (.cleanup 0 5) := by rfl
theorem test_decode_clear : decode 0b00000000_00000001_000000_000001_0101#32 = .ok (.clear 1 1) := by rfl
theorem test_decode_enumStart :
    decode 0b00000000_10000000_000000_100000_0110#32 = .ok (.enumStart 32 128) := by rfl
theorem test_decode_enumNext :
    decode 0b00000000_00000000_000000_000000_0111#32 = .ok (.enumNext 0 0) := by rfl
theorem test_decode_release :
    decode 0b00000000_00000001_000000_000000_1000#32 = .ok (.release 0 1) := by rfl
theorem test_decode_create :
    decode 0b00000000_00000001_000000_111111_1001#32 = .ok (.create 63 1) := by rfl

/-- Vector L2-4: reserved opcodes and reserved bits. -/
theorem test_decode_illegal : decode 0x0000000A#32 = .error .badOp ∧
    decode 0xFF00000F#32 = .error .badOp ∧ decode 0x00000481#32 = .error .badCmd ∧
    decode 0x01000001#32 = .error .badCmd := by refine ⟨?_, ?_, ?_, ?_⟩ <;> rfl

/-- The host's numbering of a word's bits gives the same command (R53, R91). -/
theorem test_decodeTableWord : decodeTableWord 32 0x00010009 = some (.create 0 1) := by rfl

/-- The first word after reset runs (LOOKUP on the empty table 0 completes with a miss, vector L2-6). -/
theorem test_withFetchWord_runs : ∃ s', step (State.reset.withFetchWord 32 0x00000002) = .next s' ∧
    s'.readReg .status = 0x02#32 := ⟨_, rfl, by decide⟩

/-! ## Addressing: vectors L2-1, L2-2 and L2-3 -/

theorem test_group : (List.range 11).map (fun d => (group 0xDEADBEEF#32 d).val) =
    [6, 7, 5, 2, 6, 6, 7, 6, 7, 3, 6] := by decide

theorem test_boundary : ([8, 10, 15, 29, 32].map fun c =>
    ((boundary 0xDEADBEEF#32 c).depth, (boundary 0xDEADBEEF#32 c).slot.val)) =
    [(2, 5), (3, 1), (5, 0), (9, 4), (10, 6)] := by decide

theorem test_prefix : (prefixAddr 2 0o02 5, prefixLen 2 5) = (0x0A000000#32, 8) ∧
    (prefixAddr 10 0o7777777777 6, prefixLen 10 6) = (0xFFFFFFFF#32, 32) := by decide

/-! ## One step of every command -/

/-- A created table with the given root and no cursor. -/
def tableOf (root : Node) : Table := { live := true, root := root, ecurValid := false, ecurPos := 0 }

/-- The root that holds `(0x0A000000/8, payload 8)`: depth 2, path [0, 2], slot 5 (vector L2-5). -/
def root8 : Node := (Node.empty.insert 0x0A000000#32 8 8#2048).node

/-- The three routes of vector L1-2. -/
def rootDnrd : Node :=
  ((((Node.empty.insert 0x10000000#32 15 0xA#2048).node).insert 0xFFFFFFFC#32 30 0xB#2048).node.insert
    0xFFFFFFF0#32 28 0xC#2048).node

/-- The machine of 95_test_vectors.md with table 0 as given, the block counts it owns, and a command in
flight on the given key and payload. -/
def busyWith (T : Table) (key : Key) (p : Payload) : State :=
  { State.reset with
    tables := [T, Table.fresh], usedC := T.root.ownedC, usedS := T.root.ownedS
    latch := some { cmd := 0, addr := key, payload := p } }

/-- What a test reads of an outcome: STATUS and the two pool counts. -/
def seen (o : Host.Outcome State Fault Refusal) : Option (Word × Nat × Nat) :=
  match o with
  | .next s => some (s.readReg .status, s.usedC, s.usedS)
  | .fault _ => none
  | .refused _ => none

/-- What a test reads of the result registers: STATUS, RES_ADDR, RES_CIDR, RES_PAYLOAD[0]. -/
def results (o : Host.Outcome State Fault Refusal) : Option (Word × Word × Word × Word) :=
  match o with
  | .next s =>
    some (s.readReg .status, s.readReg .resAddr, s.readReg .resCidr, s.readReg (.resPayload 0))
  | .fault _ => none
  | .refused _ => none

/-- L2-9: NOP leaves STATUS 0x02. -/
theorem test_nop : seen (exec (.nop 0 255) (busyWith (tableOf root8) 0 0)) = some (0x02#32, 2, 1) := by
  decide +kernel

/-- L2-5: the deepest route takes 10 child blocks and 1 slot block. -/
theorem test_add : seen (exec (.add 32 0) (busyWith Table.fresh 0xC0A80101#32 0xAB#2048)) =
    some (0x02#32, 10, 1) := by decide +kernel

/-- L1-4: an ADD of a stored prefix replaces it and allocates nothing. -/
theorem test_add_replaces : seen (exec (.add 30 0) (busyWith (tableOf rootDnrd) 0xFFFFFFFC#32 0xD#2048)) =
    some (0x06#32, 14, 3) := by decide +kernel

/-- L1-2: LookupRoute(0xffffffff) is the /30. -/
theorem test_lookup : results (exec (.lookup 0 0) (busyWith (tableOf rootDnrd) 0xFFFFFFFF#32 0)) =
    some (0x06#32, 0, 0, 0xB#32) := by decide +kernel

/-- L1-2: 0xFFFFFFEF misses. -/
theorem test_lookup_miss : results (exec (.lookup 0 0) (busyWith (tableOf rootDnrd) 0xFFFFFFEF#32 0)) =
    some (0x02#32, 0, 0, 0) := by decide +kernel

/-- L2-7: DELETE of the /8 clears its bit and keeps the blocks. -/
theorem test_delete : seen (exec (.delete 8 0) (busyWith (tableOf root8) 0x0A000000#32 0)) =
    some (0x06#32, 2, 1) := by decide +kernel

/-- L2-7: a /7 is a different prefix. -/
theorem test_delete_absent : seen (exec (.delete 7 0) (busyWith (tableOf root8) 0x0A000000#32 0)) =
    some (0x02#32, 2, 1) := by decide +kernel

/-- L2-8: CLEANUP frees nothing while a route is stored. -/
theorem test_cleanup_live : seen (exec (.cleanup 0 0) (busyWith (tableOf root8) 0 0)) =
    some (0x02#32, 2, 1) := by decide +kernel

/-- L1-5, L3-3: after the only route is deleted one CLEANUP frees every block and RES = 1. -/
theorem test_cleanup_dead :
    seen (exec (.cleanup 0 0) (busyWith (tableOf ((root8.remove 0x0A000000#32 8).getD root8)) 0 0)) =
      some (0x06#32, 0, 0) := by decide +kernel

/-- L2-9: CLEAR of the L1-2 table returns 14 child blocks and 3 slot blocks. -/
theorem test_clear : seen (exec (.clear 0 0) (busyWith (tableOf rootDnrd) 0 0)) = some (0x02#32, 0, 0) := by
  decide +kernel

/-- L2-10: ENUM_START completes with STATUS 0x02. -/
theorem test_enumStart : seen (exec (.enumStart 0 0) (busyWith (tableOf root8) 0 0)) =
    some (0x02#32, 2, 1) := by decide +kernel

/-- L1-2: the second triple of the enumeration is (0xFFFFFFF0, 28, 0xC). -/
theorem test_enumNext :
    results (exec (.enumNext 0 0) (busyWith { tableOf rootDnrd with ecurValid := true, ecurPos := 1 } 0 0)) =
      some (0x06#32, 0xFFFFFFF0#32, 28#32, 0xC#32) := by decide +kernel

/-- L2-10: ENUM_NEXT without a cursor is ENUM_INVALID. -/
theorem test_enumNext_invalid : seen (exec (.enumNext 0 0) (busyWith Table.fresh 0 0)) =
    some (0x62#32, 0, 0) := by decide +kernel

/-- L2-9: RELEASE of a table with a /8. -/
theorem test_release : seen (exec (.release 0 0) (busyWith (tableOf root8) 0 0)) =
    some (0x06#32, 0, 0) := by decide +kernel

/-- L2-9: CREATE of a released table, and of a live one. -/
theorem test_create :
    seen (exec (.create 0 0) (busyWith { Table.fresh with live := false } 0 0)) = some (0x06#32, 0, 0) ∧
      seen (exec (.create 0 0) (busyWith (tableOf root8) 0 0)) = some (0x02#32, 2, 1) := by
  decide +kernel

/-- L2-11: RELEASED before BAD_CIDR; BAD_TABLE on table 2 of 2; L3-5: NOMEM. -/
theorem test_errors :
    seen (exec (.add 33 0) (busyWith { Table.fresh with live := false } 0 0)) = some (0x42#32, 0, 0) ∧
      seen (exec (.add 33 2) (busyWith Table.fresh 0 0)) = some (0x32#32, 0, 0) ∧
      seen (exec (.add 33 0) (busyWith Table.fresh 0 0)) = some (0x52#32, 0, 0) ∧
      seen (exec (.add 9 0)
        { busyWith Table.fresh 0xC0000000#32 9 with cfg := { Config.vectors with cblockCap := 2 } }) =
        some (0x72#32, 0, 0) := by decide +kernel

/-! ## The register file: vector L2-12 -/

/-- The idle machine of the vectors with the given stream of events. -/
def idleWith (es : List Event) : State := { State.reset with inputs := es }

/-- L2-12 row 1. -/
theorem test_reset_registers : State.reset.readReg (regAt Config.vectors 0x004) = 0 ∧
    State.reset.readReg (regAt Config.vectors 0x018) = 100 ∧
    State.reset.readReg (regAt Config.vectors 0x020) = 0x00200002#32 ∧ State.reset.irq = false := by decide

/-- L2-12 row 2: an accepted command is busy, not complete. -/
theorem test_accept : ∃ s', step (idleWith [wr Config.vectors 0x000 0#32]) = .next s' ∧
    s'.readReg .status = 0x01#32 ∧ s'.cmd = 0#32 := ⟨_, rfl, by decide, by decide⟩

/-- L2-12 row 5: a CMD write while busy is dropped; STATUS reads 0x09. -/
theorem test_overrun :
    ∃ s', step { busyWith Table.fresh 0 0 with cmd := 0x81#32, inputs := [wr Config.vectors 0x000 0x2#32] } =
      .next s' ∧ s'.readReg .status = 0x09#32 ∧ s'.cmd = 0x81#32 := ⟨_, rfl, by decide, by decide⟩

/-- L2-12 row 8: PAYLOAD_IN[1] is unmapped with PAYLOAD_WORDS = 1. -/
theorem test_unmapped : regAt Config.vectors 0x104 = .unmapped ∧ regAt Config.vectors 0x100 = .payloadIn 0 ∧
    regAt Config.vectors 0x02C = .unmapped := by decide

/-- R52: a byte-wide access is refused. -/
theorem test_nonWord : step (idleWith [.access (.read 0x004 1)]) = .refused .nonWordAccess := by rfl

/-- R92, R93: `lookup 0, 10.11.12.13` writes ADDR, then CMD. -/
theorem test_hostLookup : hostLookup Config.vectors 0 (dottedQuad 10 11 12 13) =
    [.access (.write 0x00C 4 0x0A0B0C0D#32), .access (.write 0x000 4 0x2#32), .engine,
      .access (.read 0x004 4)] := by decide

/-! ## Witnesses: for every statement with hypotheses, a state and operands that meet them together -/

/-- A safe busy machine: table 0 holds a /8, the command in flight carries its key. -/
def busy8 : State := busyWith (tableOf root8) 0x0A000000#32 9#2048

/-- The same with the command word `w` in flight. -/
def busyCmd (w : Word) : State :=
  { busy8 with latch := some { cmd := w, addr := 0x0A000000#32, payload := 9#2048 } }

/-- The same with the engine's turn at the head of the stream and `rest` after it. -/
def busyThen (w : Word) (rest : List Event) : State :=
  { busyCmd w with inputs := .engine :: rest }

/-- The latch of `busy8`. -/
def latch8 : Latch := { cmd := 0, addr := 0x0A000000#32, payload := 9#2048 }

/-- Table 0 of `busy8` with a valid cursor at the given position. -/
def busyEnum (pos : Nat) : State :=
  busyWith { tableOf root8 with ecurValid := true, ecurPos := pos } 0x0A000000#32 9#2048

/-- The machine with table 0 released. -/
def busyReleased : State := busyWith { Table.fresh with live := false } 0 0

/-- A machine whose result registers hold the triple of a /32. -/
def busyResult : State :=
  { busy8 with res := true, resAddr := 0xFFFFFFFF#32, resCidr := 32#6, resPayload := 0x80000000#2048 }

/-- `busy8` with the given stream. -/
def busyEvents (es : List Event) : State := { busy8 with inputs := es }

theorem busy8_inv : busy8.inv = true := by decide +kernel

theorem witness_DecodeEncodeRoundTrip : (Instr.add 63 255).wellFormed = true ∧
    (Instr.create 0 0).wellFormed = true := by decide

theorem witness_DecodedWordIsTheEncoding : decode 0x00FF03F9#32 = .ok (.create 63 255) := by rfl

theorem witness_LegalWordMatchAndMask : decode 0x00FF03F1#32 = .ok (.add 63 255) ∧
    (0x00FF03F1#32 &&& 0xFF00FC0F#32).toNat = 1 := ⟨rfl, by decide⟩

theorem witness_IllegalWordsCompleteWithError :
    ((busyCmd 0x0000000A#32).engineNext [] ∧ (busyCmd 0x0000000A#32).latch.isSome = true ∧
      0xA ≤ ((0x0000000A#32).extractLsb' 0 4).toNat) ∧
    ((busyThen 0x80000009#32 [.reset]).engineNext [.reset] ∧
      (busyThen 0x80000009#32 [.reset]).latch.isSome = true ∧
      ((0x80000009#32).extractLsb' 0 4).toNat < 0xA ∧ (0x80000009#32).extractLsb' 24 8 ≠ 0) ∧
    (((0x00000401#32).extractLsb' 0 4).toNat < 0xA ∧ (0x00000401#32).extractLsb' 10 6 ≠ 0) :=
  ⟨⟨.inl ⟨rfl, rfl⟩, rfl, by decide⟩, ⟨.inr rfl, rfl, by decide, by decide⟩, by decide⟩

theorem witness_GroupValueBits : 9 ≤ 9 ∧ 2 < 3 ∧ (group 0x10#32 9).val.testBit 2 = true ∧
    (group 0x3#32 10).val = 6 := by decide

theorem witness_SlotIndexBijection : ((3 ≤ 3 ∧ 7 < 2 ^ 3) ∧ (slotIndex 3 7).val = 14) ∧
    (2 ≤ 3 ∧ 3 < 2 ^ 2 ∧ 0 < 2 ^ 3 ∧ (2 < 3 ∨ 2 = 3 ∧ 3 < 0)) := by decide

theorem witness_BoundaryOfPrefix : 32 ≤ 32 ∧ (boundary 0xFFFFFFFF#32 32).slot.val = 6 := by decide

theorem witness_CanonicalPrefixBijection :
    (24 ≤ 32 ∧ maskKey 0x0A0B0C0D#32 24 = maskKey 0x0A0B0C00#32 24) ∧
      (10 ≤ 10 ∧ 8 ^ 10 - 1 < 8 ^ 10 ∧ (6 : Fin 15).val ≤ 6) ∧ (0 ≤ 10 ∧ 0 < 8 ^ 0) := by decide

theorem witness_StoredRouteOfCanonicalPrefix :
    8 ≤ 32 ∧ maskKey 0x0A000000#32 8 = maskKey 0x0AFFFFFF#32 8 ∧
      storedAt root8 0x0AFFFFFF#32 8 = some 8#2048 := by decide +kernel

theorem witness_StepRunsDecodedCommand :
    ((busyCmd 0x2#32).latch.isSome = true ∧ decode 0x2#32 = .ok (.lookup 0 0) ∧
      (busyCmd 0x2#32).inputs = []) ∧ (busyEvents [.engine]).inputs = .engine :: [] ∧
      (busyEvents [.engine]).latch = some latch8 ∧ decode latch8.cmd = .ok (.nop 0 0) :=
  ⟨⟨by decide, rfl, rfl⟩, rfl, rfl, rfl⟩

theorem witness_AcceptanceOfCommand :
    ((idleWith [.access (.write 0 4 0x81#32)]).inputs =
        .access (.write (idleWith [.access (.write 0 4 0x81#32)]).cfg.base 4 0x81#32) :: [] ∧
      (idleWith [.access (.write 0 4 0x81#32)]).latch = none) ∧ busy8.latch = some latch8 :=
  ⟨⟨rfl, rfl⟩, rfl⟩

theorem witness_OverrunIsSticky :
    ((busyEvents [.access (.write 0 4 2#32)]).inputs = .access (.write busy8.cfg.base 4 2#32) :: [] ∧
      (busyEvents [.access (.write 0 4 2#32)]).latch = some latch8) ∧
    (∃ s s' : State, s.overrun = true ∧ step s = .next s' ∧ s'.overrun = false) :=
  ⟨⟨rfl, rfl⟩,
    { State.reset with overrun := true, inputs := [.access (.write 4 4 8#32)] }, _, rfl, rfl, by decide⟩

theorem witness_HostAccessReachesRegister :
    (0x3FC < 0x400 ∧ 0x3FC % 4 = 0 ∧ (idleWith [.access (.write 0x3FC 4 1#32)]).inputs =
      .access (.write (State.reset.cfg.base + 0x3FC) 4 1#32) :: []) ∧
    (idleWith [.access (.read 0 4)]).inputs = .access (.read (State.reset.cfg.base + 0) 4) :: [] ∧
    ({ Config.vectors with payloadBits := 2048 }).legal = true ∧
    63 < payloadWords { Config.vectors with payloadBits := 2048 } := by decide

/-- At the last bit below and the first at PAYLOAD_BITS = 32. -/
theorem witness_HostReadsRegisterFields :
    31 < 32 ∧ 0 < 32 ∧ payloadFits busyResult.cfg.payloadBits busyResult.payloadIn = true ∧
      payloadFits busyResult.cfg.payloadBits busyResult.resPayload = true ∧
      busyResult.cfg.payloadBits ≤ 32 * 1 + 0 ∧
      (busyResult.readReg (.resPayload 0)).getLsbD 31 = true ∧
      busyResult.readReg .resCidr = 32#32 := by decide +kernel

theorem witness_OperandRegistersReadBack : State.reset.cfg.legal = true ∧
    payloadFits State.reset.cfg.payloadBits State.reset.payloadIn = true ∧
    0 < payloadWords State.reset.cfg ∧ 31 < 32 ∧
    63 < payloadWords { Config.vectors with payloadBits := 2048 } := by decide +kernel

theorem witness_UnmappedOffsetsReadZero : (0x02C < 0x400 ∧ ¬ (0x02C ≤ 0x028 ∧ 0x02C % 4 = 0) ∧
    ¬ (0x100 ≤ 0x02C ∧ 0x02C < 0x100 + 4 * payloadWords Config.vectors ∧ 0x02C % 4 = 0) ∧
    ¬ (0x200 ≤ 0x02C ∧ 0x02C < 0x200 + 4 * payloadWords Config.vectors ∧ 0x02C % 4 = 0)) ∧
    (0x204 < 0x400 ∧ ¬ (0x204 < 0x200 + 4 * payloadWords Config.vectors)) := by decide

theorem witness_RegisterWriteFrame : Reg.status ≠ .cmd ∧ Reg.ctrl ≠ .status ∧ Reg.addr ≠ .ctrl ∧
    Reg.payloadIn 0 ≠ .addr ∧ ∀ i, Reg.ctrl ≠ .payloadIn i :=
  ⟨by decide, by decide, by decide, by decide, fun _ h => by cases h⟩

theorem witness_OnlyAlignedWordAccesses :
    (0x3FE < 0x400 ∧ (idleWith [.access (.read 0x3FE 4)]).inputs =
      .access (.read (State.reset.cfg.base + 0x3FE) 4) :: [] ∧ 0x3FE % 4 ≠ 0) ∧
    ((idleWith [.access (.write 0x3FC 2 1#32)]).inputs =
      .access (.write (State.reset.cfg.base + 0x3FC) 2 1#32) :: [] ∧ 2 ≠ 4) ∧
    (idleWith [.access (.read 0 4)]).inputs = .access (.read (State.reset.cfg.base + 0) 4) :: [] := by
  decide

theorem witness_LittleEndianLanes : 3 < 4 ∧ 7 < 8 ∧ 0x00C % 4 = 0 ∧ (laneOf 0x80000000#32 3) = 0x80#8 := by
  decide

theorem witness_InformationRegistersRead : busy8.paramInv = true ∧ busy8.poolInv = true := by
  decide +kernel

theorem witness_ResultsHoldUntilCompletion :
    ∃ s', (busyEvents [.access (.write 0xC 4 5#32)]).inputs = .access (.write 0xC 4 5#32) :: [] ∧
      step (busyEvents [.access (.write 0xC 4 5#32)]) = .next s' := ⟨_, rfl, rfl⟩

theorem witness_InterruptIsLevel :
    (∃ s', (busyThen 0#32 [.reset]).engineNext [.reset] ∧ (busyThen 0#32 [.reset]).busy = true ∧
      step (busyThen 0#32 [.reset]) = .next s') ∧
      (2#32).getLsbD 1 = true ∧ State.reset.busy = false ∧ (2#32).getLsbD 0 = false :=
  ⟨⟨_, .inr rfl, rfl, rfl⟩, by decide, rfl, by decide⟩

theorem witness_IdleBlockIsStill : State.reset.engineNext [] ∧ State.reset.busy = false ∧
    (idleWith [.engine, .reset]).engineNext [.reset] ∧ (idleWith [.engine, .reset]).busy = false :=
  ⟨.inl ⟨rfl, rfl⟩, rfl, .inr rfl, rfl⟩

theorem witness_ResetInputRestoresResetState : (busyEvents [.reset]).inputs = .reset :: [] := by rfl

theorem witness_ErrorHasNoOtherEffect : ∃ s', (busyThen 0xF#32 [.reset]).engineNext [.reset] ∧
    (busyThen 0xF#32 [.reset]).busy = true ∧ step (busyThen 0xF#32 [.reset]) = .next s' ∧
    s'.err ≠ .ok := ⟨_, .inr rfl, rfl, rfl, by decide⟩

theorem witness_ErrorIsFirstFailingCheck :
    ((busyThen 0x01FF0001#32 [.reset]).engineNext [.reset] ∧
      (busyThen 0x01FF0001#32 [.reset]).commandError
        { cmd := 0x01FF0001#32, addr := 0x0A000000#32, payload := 9#2048 } = some .badCmd) ∧
    (busyCmd 0x7#32).commandError
      { cmd := 0x7#32, addr := 0x0A000000#32, payload := 9#2048 } = some .enumInvalid ∧
    (busyCmd 0x81#32).engineNext [] ∧ (busyCmd 0x81#32).commandError
      { cmd := 0x81#32, addr := 0x0A000000#32, payload := 9#2048 } = none ∧
    (busyCmd 0x81#32).trieInv = true ∧
    (busyCmd 0x211#32).commandError
      { cmd := 0x211#32, addr := 0x0A000000#32, payload := 9#2048 } = some .badCidr :=
  ⟨⟨.inr rfl, by decide +kernel⟩, by decide +kernel, .inl ⟨rfl, rfl⟩, by decide +kernel, by decide +kernel,
    by decide +kernel⟩

theorem witness_BadTableCompletion : busy8.latch = some latch8 ∧ (Instr.lookup 0 2).opcode ≠ 0 ∧
    busy8.numTables ≤ (Instr.lookup 0 2).table := ⟨rfl, by decide, by decide⟩

theorem witness_ReleasedTableCommands :
    busyReleased.latch = some { cmd := 0, addr := 0, payload := 0 } ∧
      busyReleased.tables[0]? = some { Table.fresh with live := false } ∧
      Instr.enumNext 0 0 ∈ [Instr.add 0 0, .lookup 0 0, .delete 0 0, .cleanup 0 0, .clear 0 0,
        .enumStart 0 0, .enumNext 0 0] := ⟨rfl, rfl, by decide⟩

theorem witness_BadCidrCompletion : busy8.latch = some latch8 ∧ busy8.tables[0]? = some (tableOf root8) ∧
    (tableOf root8).live = true ∧ 32 < 33 := ⟨rfl, rfl, rfl, by decide⟩

theorem witness_NomemExactlyWhenShort :
    (busy8.latch = some latch8 ∧ busy8.tables[0]? = some (tableOf root8) ∧ 9 ≤ 32 ∧
      ¬ (busy8.cfg.cblockCap - busy8.usedC < ((tableOf root8).root.need latch8.addr (9 / 3)).1 ∨
        busy8.cfg.sblockCap - busy8.usedS < ((tableOf root8).root.need latch8.addr (9 / 3)).2)) ∧
    2 - busy8.usedC < ((tableOf root8).root.need latch8.addr (9 / 3)).1 := by decide +kernel

theorem witness_NopCompletes : busy8.latch = some latch8 := by rfl

theorem witness_AddStoresRoute : busy8.latch = some latch8 ∧ busy8.tables[0]? = some (tableOf root8) ∧
    (tableOf root8).live = true ∧ 32 ≤ 32 ∧
    (tableOf root8).root.legal busy8.cfg.payloadBits 0 = true ∧
    ((tableOf root8).root.need latch8.addr (32 / 3)).1 ≤ busy8.cfg.cblockCap - busy8.usedC ∧
    ((tableOf root8).root.need latch8.addr (32 / 3)).2 ≤ busy8.cfg.sblockCap - busy8.usedS := by
  decide +kernel

theorem witness_AddLaws : ∃ s', busy8.latch = some latch8 ∧ busy8.tables[0]? = some (tableOf root8) ∧
    (tableOf root8).root.legal busy8.cfg.payloadBits 0 = true ∧ exec (.add 9 0) busy8 = .next s' ∧
    s'.err = .ok := ⟨_, rfl, rfl, by decide +kernel, rfl, by decide +kernel⟩

theorem witness_LookupIsLongestPrefixMatch :
    busy8.latch = some latch8 ∧ busy8.tables[0]? = some (tableOf root8) ∧ (tableOf root8).live = true ∧
      (tableOf root8).root.legal busy8.cfg.payloadBits 0 = true ∧
      storedAt (tableOf root8).root latch8.addr 8 = some 8#2048 := by decide +kernel

theorem witness_DeleteRemovesRoute : busy8.latch = some latch8 ∧
    busy8.tables[0]? = some (tableOf root8) ∧ (tableOf root8).live = true ∧ 8 ≤ 32 ∧
    storedAt (tableOf root8).root latch8.addr 7 = none := by decide +kernel

/-- Vector L2-8 row 2: the /8 of `root8` deleted above a stored 0x0A0B0C00/24, so that the node at path
[0, 2] has a live child and a slot block without a route. -/
def rootEmptied : Node := ((root8.insert 0x0A0B0C00#32 24 1#2048).node.remove 0x0A000000#32 8).getD root8

/-- L2-8 row 2: the emptied slot block of a node with a live child stays in use. -/
theorem test_cleanup_keeps_slot_block :
    seen (exec (.cleanup 0 0) (busyWith (tableOf rootEmptied) 0 0)) = some (0x02#32, 8, 2) := by
  decide +kernel

theorem witness_CleanupReclaimsDeadSubtrees :
    (rootEmptied.legal 32 0 = true ∧
      (rootEmptied.sweep.node.find 0x0A000000#32 2).any (fun n => !n.isEmpty && n.smask = 0) = true) ∧
    busy8.latch = some latch8 ∧ busy8.tables[0]? = some (tableOf root8) ∧ (tableOf root8).live = true ∧
      (tableOf root8).root.legal busy8.cfg.payloadBits 0 = true := by decide +kernel

theorem witness_ClearEmptiesTable : busy8.latch = some latch8 ∧
    busy8.tables[0]? = some (tableOf root8) ∧ (tableOf root8).live = true := ⟨rfl, rfl, rfl⟩

theorem witness_EnumStartSetsCursor : busy8.latch = some latch8 ∧
    busy8.tables[1]? = some Table.fresh ∧ Table.fresh.live = true := ⟨rfl, rfl, rfl⟩

theorem witness_EnumNextReturnsElement :
    ((busyEnum 0).latch = some latch8 ∧
      (busyEnum 0).tables[0]? = some { tableOf root8 with ecurValid := true } ∧
      root8.legal (busyEnum 0).cfg.payloadBits 0 = true ∧
      root8.enumAll[0]? = some { addr := 0x0A000000#32, cidr := 8, payload := 8#2048 }) ∧
    root8.enumAll.length ≤ 1 := by decide +kernel

theorem witness_ReleaseFreesTable :
    (busy8.latch = some latch8 ∧ busy8.tables[0]? = some (tableOf root8) ∧
      (tableOf root8).live = true) ∧
    busyReleased.tables[0]? = some { Table.fresh with live := false } := ⟨⟨rfl, rfl, rfl⟩, rfl⟩

theorem witness_CreateMakesTableLive : busy8.latch = some latch8 ∧
    busy8.tables[0]? = some (tableOf root8) ∧ busyReleased.latch.isSome = true ∧
    busyReleased.tables[0]? = some { Table.fresh with live := false } := ⟨rfl, rfl, rfl, rfl⟩

theorem witness_ReleaseLaws : ∃ s' s'', busy8.latch = some latch8 ∧ busy8.poolInv = true ∧
    busy8.tables[0]? = some (tableOf root8) ∧ (tableOf root8).live = true ∧
    exec (.clear 0 0) busy8 = .next s' ∧ exec (.release 0 0) busy8 = .next s'' :=
  ⟨_, _, rfl, by decide +kernel, rfl, rfl, rfl, rfl⟩

theorem witness_EnumerationIsComplete : rootDnrd.legal 32 0 = true ∧ rootDnrd.enumAll.length = 3 := by
  decide +kernel

/-- R155: 128.0.0.0/1, a root slot, comes before 0.0.0.0/3, in the root's child 0. -/
theorem test_enum_order :
    (((Node.empty.insert 0#32 3 1#2048).node.insert 0x80000000#32 1 2#2048).node.enumAll.map
      fun e => (e.addr, e.cidr)) = [(0x80000000#32, 1), (0#32, 3)] := by decide +kernel

theorem witness_EnumerationIsStable : ∃ s' T', step { busyEnum 0 with inputs := [.access (.read 0 4)] } =
    .next s' ∧ s'.tables[0]? = some T' ∧ T'.ecurValid = true := ⟨_, _, rfl, rfl, rfl⟩

theorem witness_CursorInvalidation :
    (∃ s' T T', exec (.add 8 0) (busyEnum 0) = .next s' ∧ (busyEnum 0).tables[0]? = some T ∧
      s'.tables[0]? = some T' ∧ s'.err = .ok) ∧
    (∃ s', exec (.lookup 0 0) (busyEnum 0) = .next s') ∧
    (∃ s', exec (.enumStart 0 0) (busyEnum 1) = .next s' ∧ s'.err = .ok) ∧
    (∃ s', exec (.add 33 0) (busyEnum 0) = .next s' ∧ s'.err ≠ .ok) :=
  ⟨⟨_, _, _, rfl, rfl, rfl, rfl⟩, ⟨_, rfl⟩, ⟨_, rfl, rfl⟩, ⟨_, rfl, by decide⟩⟩

theorem witness_TablesAreIndependent : (∃ s', 1 ≠ (Instr.add 8 0).table ∧
    exec (.add 8 0) busy8 = .next s') ∧ (0 ≠ (Instr.add 8 1).table ∧
    exec (.add 8 1) { busy8 with latch := none } = .fault .noCommandInFlight) :=
  ⟨⟨_, by decide, rfl⟩, by decide, rfl⟩

theorem witness_CommandFrame : ∃ s', exec (.delete 8 0) busy8 = .next s' ∧ 1 ≠ (Instr.delete 8 0).table :=
  ⟨_, rfl, by decide⟩

theorem witness_AddThenLookup : ∃ s', busy8.latch = some latch8 ∧
    busy8.tables[0]? = some (tableOf root8) ∧
    (tableOf root8).root.legal busy8.cfg.payloadBits 0 = true ∧
    payloadFits busy8.cfg.payloadBits latch8.payload = true ∧ exec (.add 9 0) busy8 = .next s' ∧
    s'.err = .ok ∧ maskKey 0x0A7FFFFF#32 9 = maskKey latch8.addr 9 ∧
    ∀ d, 9 < d → d ≤ 32 → storedAt (tableOf root8).root 0x0A7FFFFF#32 d = none :=
  ⟨_, rfl, rfl, by decide +kernel, by decide +kernel, rfl, by decide +kernel, by decide, by
    intro d h1 h2; interval_cases d <;> rfl⟩

theorem witness_DeleteThenLookup : ∃ s', busy8.latch = some latch8 ∧
    busy8.tables[0]? = some (tableOf root8) ∧
    (tableOf root8).root.legal busy8.cfg.payloadBits 0 = true ∧
    exec (.delete 8 0) busy8 = .next s' ∧ s'.err = .ok ∧ s'.res = true ∧
    maskKey 0x0AFFFFFF#32 8 = maskKey latch8.addr 8 ∧
    ∀ d, d ≠ 8 → d ≤ 32 → storedAt (tableOf root8).root 0x0AFFFFFF#32 d = none :=
  ⟨_, rfl, rfl, by decide +kernel, rfl, by decide +kernel, by decide +kernel, by decide, by
    intro d h1 h2; interval_cases d <;> first | rfl | exact absurd rfl h1⟩

/-- A second ADD of the /9 with other host bits, and a LOOKUP key under it. -/
theorem witness_InsertIsIdempotent : ∃ s1, busy8.latch = some latch8 ∧
    busy8.tables[0]? = some (tableOf root8) ∧
    (tableOf root8).root.legal busy8.cfg.payloadBits 0 = true ∧
    payloadFits busy8.cfg.payloadBits latch8.payload = true ∧
    payloadFits busy8.cfg.payloadBits 7#2048 = true ∧
    maskKey 0x0A7FFFFF#32 9 = maskKey latch8.addr 9 ∧ exec (.add 9 0) busy8 = .next s1 ∧
    s1.err = .ok :=
  ⟨_, rfl, rfl, by decide +kernel, by decide +kernel, by decide +kernel, by decide, rfl,
    by decide +kernel⟩

/-- R128: the second of two ADDs of the /9 replaces the route and takes no block. -/
theorem test_add_twice : (match exec (.add 9 0) busy8 with
    | .next s1 => seen (exec (.add 9 0) { s1 with latch := some latch8 })
    | .fault _ => none
    | .refused _ => none) = some (0x06#32, 3, 2) := by decide +kernel

theorem witness_ResetMeetsInvariants : Config.vectors.legal = true ∧ 1 ≤ 256 ∧ 256 ≤ 256 := by
  decide

theorem witness_StepKeepsTrieInvariants : ∃ s', (busyCmd 0x201#32).trieInv = true ∧
    latchFits (busyCmd 0x201#32).cfg.payloadBits (busyCmd 0x201#32).latch = true ∧
    step (busyCmd 0x201#32) = .next s' := ⟨_, by decide +kernel, by decide +kernel, rfl⟩

theorem witness_StepKeepsPoolAccounting : ∃ s', (busyCmd 0x201#32).trieInv = true ∧
    (busyCmd 0x201#32).poolInv = true ∧ step (busyCmd 0x201#32) = .next s' :=
  ⟨_, by decide +kernel, by decide +kernel, rfl⟩

theorem witness_StepKeepsRegisterInvariant : ∃ s', (busyCmd 0x2#32).trieInv = true ∧
    (busyCmd 0x2#32).regInv = true ∧ step (busyCmd 0x2#32) = .next s' :=
  ⟨_, by decide +kernel, by decide +kernel, rfl⟩

theorem witness_StepKeepsParameters : ∃ s', step (busyEvents [.reset]) = .next s' := ⟨_, rfl⟩

theorem witness_EngineNeverHalts : busy8.trieInv = true ∧
    (idleWith [.access (.read 0x400 4)]).trieInv = true ∧
    step (idleWith [.access (.read 0x400 4)]) = .refused .outsideWindow :=
  ⟨by decide +kernel, by decide +kernel, rfl⟩

theorem witness_BusyBlockCompletes : (busyEvents [wr Config.vectors 0 2#32, .engine]).inv = true ∧
    (busyEvents [wr Config.vectors 0 2#32, .engine]).busy = true ∧
    (busyEvents [wr Config.vectors 0 2#32, .engine]).inputs.all (eventServed Config.vectors) = true ∧
    busy8.inv = true ∧ busy8.engineNext [] ∧ (busyThen 0#32 [.reset]).inv = true ∧
    (busyThen 0#32 [.reset]).engineNext [.reset] ∧
    .reset ∉ (busyEvents [wr Config.vectors 0 2#32, .engine]).inputs :=
  ⟨by decide +kernel, by decide +kernel, by decide +kernel, by decide +kernel, .inl ⟨rfl, rfl⟩,
    by decide +kernel, .inr rfl, by decide⟩

end Sys2Proof.Tests
end

section
/-! The register file: which offsets of the window rule R39 leaves unmapped, and what the registers read
right after reset (R41). -/

namespace Sys2Proof.Machine

/-! ### Unmapped offsets (R39) -/

/-- The aligned words of 0x000..0x028 are the eleven fixed offsets of R27's map. -/
theorem fixedOffset_iff (off : Nat) :
    off ≤ 0x028 ∧ off % 4 = 0 ↔
      off = 0x000 ∨ off = 0x004 ∨ off = 0x008 ∨ off = 0x00C ∨ off = 0x010 ∨ off = 0x014 ∨
        off = 0x018 ∨ off = 0x01C ∨ off = 0x020 ∨ off = 0x024 ∨ off = 0x028 := by
  omega

/-- An offset is unmapped exactly when it is no word of the fixed block 0x000..0x028 and no word of
the two payload arrays. -/
theorem regAt_eq_unmapped_iff (cfg : Config) (off : Nat) :
    regAt cfg off = .unmapped ↔
      ¬ (off ≤ 0x028 ∧ off % 4 = 0) ∧
      ¬ (0x100 ≤ off ∧ off < 0x100 + 4 * payloadWords cfg ∧ off % 4 = 0) ∧
      ¬ (0x200 ≤ off ∧ off < 0x200 + 4 * payloadWords cfg ∧ off % 4 = 0) := by
  rw [fixedOffset_iff]
  simp only [regAt, ite_eq_iff, reduceCtorEq, and_false, false_or, and_true, not_or, and_assoc]

theorem State.readReg_unmapped (s : State) : s.readReg .unmapped = 0 := rfl

theorem State.writeReg_unmapped (s : State) (v : Word) : s.writeReg v .unmapped = s := rfl

/-- Settles O18: an offset outside R27's map is `unmapped`, which reads 0 and ignores writes. -/
theorem unmappedOffsetsReadZero : Obligations.UnmappedOffsetsReadZero := by
  intro s off v _ hfixed hin hres
  have hreg : regAt s.cfg off = .unmapped := (regAt_eq_unmapped_iff s.cfg off).2 ⟨hfixed, hin, hres⟩
  rw [hreg]
  exact ⟨s.readReg_unmapped, s.writeReg_unmapped v⟩

/-! ### Reset values (R41) -/

@[simp] theorem payloadWord_zero (i : Nat) : payloadWord 0 i = 0 := by
  simp [payloadWord]

@[simp] theorem State.resetWith_freeC (cfg : Config) (n : Nat) :
    (State.resetWith cfg n).freeC = cfg.cblockCap := rfl

@[simp] theorem State.resetWith_freeS (cfg : Config) (n : Nat) :
    (State.resetWith cfg n).freeS = cfg.sblockCap := rfl

theorem State.resetWith_statusWord (cfg : Config) (n : Nat) :
    (State.resetWith cfg n).statusWord = 0 := by
  simp [statusWord, busy, resetWith, ErrCode.code]

/-- The registers whose reset value depends on the parameters: the counters and constants of R36, R37
and R38. Every other register of the map resets to 0. -/
def Reg.isInformation : Reg → Bool
  | .freeCblocks | .freeSblocks | .params | .capCblocks | .capSblocks => true
  | _ => false

theorem State.resetWith_readReg_eq_zero (cfg : Config) (n : Nat) {r : Reg}
    (hr : r.isInformation = false) : (State.resetWith cfg n).readReg r = 0 := by
  cases r with
  | status => exact resetWith_statusWord cfg n
  | cmd | ctrl | addr | resAddr | resCidr | unmapped => rfl
  | payloadIn i | resPayload i => exact payloadWord_zero i
  | freeCblocks | freeSblocks | params | capCblocks | capSblocks => cases hr

/-- Settles O26: the registers that hold no parameter read 0, the free counts are the capacities, and the
rest are the fields of the reset state. -/
theorem resetValues : Obligations.ResetValues := by
  intro cfg n
  have zero : ∀ r : Reg, r.isInformation = false → (State.resetWith cfg n).readReg r = 0 :=
    fun _ => State.resetWith_readReg_eq_zero cfg n
  have freeC : (State.resetWith cfg n).readReg .freeCblocks = BitVec.ofNat 32 cfg.cblockCap :=
    congrArg (BitVec.ofNat 32) (State.resetWith_freeC cfg n)
  have freeS : (State.resetWith cfg n).readReg .freeSblocks = BitVec.ofNat 32 cfg.sblockCap :=
    congrArg (BitVec.ofNat 32) (State.resetWith_freeS cfg n)
  exact ⟨rfl, rfl, rfl, rfl, zero _ rfl, zero _ rfl, zero _ rfl, zero _ rfl, zero _ rfl, zero _ rfl,
    fun _ => ⟨zero _ rfl, zero _ rfl⟩, freeC, freeS, rfl, rfl, rfl⟩

end Sys2Proof.Machine
end

section
/-! The host's accesses: which of them are served (R52), how a write of CMD is accepted or dropped (R60,
R62), and what a completion leaves of the register file (R61). -/

namespace Sys2Proof.Machine

/-! ### Served and refused accesses (R50, R52) -/

theorem step_access {s : State} {a : Access} {rest : List Event}
    (h : s.inputs = .access a :: rest) : step s = hostAccess a { s with inputs := rest } := by
  simp [step, h, handleEvent]

theorem accessOffset_nonWord (cfg : Config) {off bytes : Nat} (hoff : off < 0x400)
    (h : bytes ≠ 4 ∨ off % 4 ≠ 0) :
    accessOffset cfg (cfg.base + off) bytes = .error .nonWordAccess := by
  have hin : ¬ (cfg.base + off < cfg.base ∨ cfg.base + windowBytes ≤ cfg.base + off) := by
    unfold windowBytes; omega
  rw [accessOffset, if_neg hin, Nat.add_sub_cancel_left, if_pos h]

theorem hostAccess_read_error {s : State} {address bytes : Nat} {r : Refusal}
    (h : accessOffset s.cfg address bytes = .error r) :
    hostAccess (.read address bytes) s = .refused r := by
  simp [hostAccess, h]

theorem hostAccess_write_error {s : State} {address bytes : Nat} {r : Refusal} (v : Word)
    (h : accessOffset s.cfg address bytes = .error r) :
    hostAccess (.write address bytes v) s = .refused r := by
  simp [hostAccess, h]

/-- An aligned word read drives the register's value and changes nothing else (R56). -/
theorem step_read_word {s : State} {off : Nat} {rest : List Event} (hoff : off < 0x400)
    (h4 : off % 4 = 0) (h : s.inputs = .access (.read (s.cfg.base + off) 4) :: rest) :
    step s = .next { s with inputs := rest, lastRead := some (s.readReg (regAt s.cfg off)) } := by
  rw [step_access h, hostAccess, accessOffset_aligned s.cfg hoff h4]
  rfl

/-- An aligned word write reaches the register at its offset (R27). -/
theorem step_write_word {s : State} {off : Nat} {v : Word} {rest : List Event} (hoff : off < 0x400)
    (h4 : off % 4 = 0) (h : s.inputs = .access (.write (s.cfg.base + off) 4 v) :: rest) :
    step s = .next ({ s with inputs := rest }.writeReg v (regAt s.cfg off)) := by
  rw [step_access h, hostAccess, accessOffset_aligned s.cfg hoff h4]

/-- Settles O20: the bus refuses an access that is no aligned word, and each direction of an aligned
word access has its served step. -/
theorem onlyAlignedWordAccesses : Obligations.OnlyAlignedWordAccesses := by
  intro s off bytes v rest hoff hinputs
  constructor
  · intro hbad
    have herr := accessOffset_nonWord s.cfg hoff hbad
    obtain hread | hwrite := hinputs
    · rw [step_access hread]
      exact hostAccess_read_error herr
    · rw [step_access hwrite]
      exact hostAccess_write_error v herr
  · rintro rfl h4
    obtain hread | hwrite := hinputs
    · exact ⟨_, step_read_word hoff h4 hread⟩
    · exact ⟨_, step_write_word hoff h4 hwrite⟩

/-! ### Writes of CMD (R60, R62) -/

theorem State.writeCmd_of_idle {s : State} (w : Word) (h : s.latch = none) :
    s.writeCmd w = s.accept w := by
  simp [writeCmd, busy, h]

theorem State.writeCmd_of_busy {s : State} {L : Latch} (w : Word) (h : s.latch = some L) :
    s.writeCmd w = s.dropCommand := by
  simp [writeCmd, busy, h]

/-- A write at the base address, where R27 puts CMD. -/
theorem step_write_cmd {s : State} {w : Word} {rest : List Event}
    (h : s.inputs = .access (.write s.cfg.base 4 w) :: rest) :
    step s = .next ({ s with inputs := rest }.writeCmd w) :=
  step_write_word (off := 0) (by decide) rfl h

/-- No register write changes the latch of a busy block: a second CMD write is dropped (R62), and the
other registers are not the latch (R40, R60). -/
theorem State.writeReg_latch_of_busy {s : State} {L : Latch} (v : Word) (r : Reg)
    (h : s.latch = some L) : (s.writeReg v r).latch = some L := by
  cases r with
  | cmd =>
    have hdrop : s.writeReg v .cmd = s.dropCommand := writeCmd_of_busy v h
    rw [hdrop, dropCommand_latch, h]
  | status | ctrl | addr | payloadIn i => exact h
  | resAddr | resCidr | freeCblocks | freeSblocks | params | capCblocks | capSblocks | resPayload i
  | unmapped => exact h

/-- Settles O12: the write at CMD is `accept` on the state with the later events, and a latch that
stands is kept by every register write. -/
theorem acceptanceOfCommand : Obligations.AcceptanceOfCommand := by
  constructor
  · intro s w rest hinputs hidle
    rw [step_write_cmd hinputs, State.writeCmd_of_idle (s := { s with inputs := rest }) w hidle]
    rfl
  · intro s L v r hbusy
    exact State.writeReg_latch_of_busy v r hbusy

/-! ### What a completion can change (R61, R181) -/

/-- The state with other tables and other pool counts: all that a command can change before its
completion (R71). -/
def State.withTables (s : State) (tables : List Table) (usedC usedS : Nat) : State :=
  { s with tables := tables, usedC := usedC, usedS := usedS }

@[simp] theorem State.withTables_overrun (s : State) (ts : List Table) (uc us : Nat) :
    (s.withTables ts uc us).overrun = s.overrun := rfl

/-- `s'` is a completion of the command in flight of `s`: beyond the tables and the pool counts only the
result registers, DONE and the latch differ (R61). -/
def Completes (s s' : State) : Prop :=
  ∃ tables usedC usedS r, s' = (s.withTables tables usedC usedS).complete r

theorem completes_complete (s : State) (r : Result) : Completes s (s.complete r) :=
  ⟨s.tables, s.usedC, s.usedS, r, rfl⟩

theorem completes_raise (s : State) (e : ErrCode) : Completes s (s.raise e) :=
  completes_complete s _

theorem completes_setTable (s : State) (t : Nat) (T : Table) (r : Result) :
    Completes s ((s.setTable t T).complete r) :=
  ⟨s.tables.set t T, s.usedC, s.usedS, r, rfl⟩

theorem completes_allocate (s : State) (t : Nat) (T : Table) (nc ns : Nat) (r : Result) :
    Completes s (((s.setTable t T).allocate nc ns).complete r) :=
  ⟨s.tables.set t T, s.usedC + nc, s.usedS + ns, r, rfl⟩

theorem completes_free (s : State) (t : Nat) (T : Table) (nc ns : Nat) (r : Result) :
    Completes s (((s.setTable t T).free nc ns).complete r) :=
  ⟨s.tables.set t T, s.usedC - nc, s.usedS - ns, r, rfl⟩

theorem completes_emptyTable (s : State) (t : Nat) (T : Table) (r : Result) :
    Completes s ((s.emptyTable t T).complete r) :=
  completes_free s t _ _ _ r

theorem StoppedByTable.completes {t : Nat} {s s' : State} (h : StoppedByTable t s s') :
    Completes s s' := by
  obtain ⟨-, rfl⟩ | ⟨-, -, -, rfl⟩ := h
  · exact completes_raise s .badTable
  · exact completes_raise s .released

/-- Every command that ends in a next state completes (R61), whatever its checks said. -/
theorem exec_completes {i : Instr} {s s' : State} (h : exec i s = .next s') : Completes s s' := by
  cases i with
  | nop c t =>
    obtain ⟨-, -, rfl⟩ := execNop_next (c := c) (t := t) h
    exact completes_complete s _
  | add c t =>
    obtain ⟨-, -, hstop | ⟨T, -, -, ⟨-, rfl⟩ | ⟨-, -, rfl⟩ | ⟨-, -, rfl⟩⟩⟩ := execAdd_next h
    · exact hstop.completes
    · exact completes_raise s _
    · exact completes_raise s _
    · exact completes_allocate s t _ _ _ _
  | lookup c t =>
    obtain ⟨-, -, hstop | ⟨T, m, -, -, -, rfl⟩⟩ := execLookup_next (c := c) h
    · exact hstop.completes
    · exact completes_complete s _
  | delete c t =>
    obtain ⟨-, -, hstop | ⟨T, -, -, ⟨-, rfl⟩ | ⟨-, rfl⟩⟩⟩ := execDelete_next h
    · exact hstop.completes
    · exact completes_raise s _
    · exact completes_setTable s t _ _
  | cleanup c t =>
    obtain ⟨-, -, hstop | ⟨T, -, -, rfl⟩⟩ := execCleanup_next (c := c) h
    · exact hstop.completes
    · exact completes_free s t _ _ _ _
  | clear c t =>
    obtain ⟨-, -, hstop | ⟨T, -, -, rfl⟩⟩ := execClear_next (c := c) h
    · exact hstop.completes
    · exact completes_emptyTable s t T _
  | enumStart c t =>
    obtain ⟨-, -, hstop | ⟨T, -, -, rfl⟩⟩ := execEnumStart_next (c := c) h
    · exact hstop.completes
    · exact completes_setTable s t _ _
  | enumNext c t =>
    obtain ⟨-, -, hstop | ⟨T, -, -, ⟨-, rfl⟩ | ⟨-, -, -, rfl⟩ | ⟨e, -, -, -, rfl⟩⟩⟩ :=
      execEnumNext_next (c := c) h
    · exact hstop.completes
    · exact completes_raise s _
    · exact completes_complete s _
    · exact completes_setTable s t _ _
  | release c t =>
    obtain ⟨-, -, ⟨-, rfl⟩ | ⟨T, -, ⟨-, rfl⟩ | ⟨-, rfl⟩⟩⟩ := execRelease_next (c := c) h
    · exact completes_raise s _
    · exact completes_emptyTable s t _ _
    · exact completes_setTable s t _ _
  | create c t =>
    obtain ⟨-, -, ⟨-, rfl⟩ | ⟨T, -, rfl⟩⟩ := execCreate_next (c := c) h
    · exact completes_raise s _
    · exact completes_setTable s t _ _

/-- The engine's turn leaves an idle block as it is (R198) and completes the command of a busy one. -/
theorem engineTurn_next {s s' : State} (h : engineTurn s = .next s') : s' = s ∨ Completes s s' := by
  obtain ⟨-, hidle⟩ | ⟨-, x, -, -, herr⟩ | ⟨-, i, -, -, hexec⟩ := engineTurn_cases s
  · cases hidle.symm.trans h
    exact .inl rfl
  · cases herr.symm.trans h
    exact .inr (completes_raise s _)
  · exact .inr (exec_completes (hexec.symm.trans h))

/-! ### OVERRUN (R62) -/

theorem Completes.overrun {s s' : State} (h : Completes s s') : s'.overrun = s.overrun := by
  obtain ⟨ts, uc, us, r, rfl⟩ := h
  rw [State.complete_overrun, State.withTables_overrun]

theorem engineTurn_overrun {s s' : State} (h : engineTurn s = .next s') :
    s'.overrun = s.overrun := by
  obtain rfl | hcomplete := engineTurn_next h
  · rfl
  · exact hcomplete.overrun

theorem State.overrun_writeCmd {s : State} (w : Word) (h : s.overrun = true) :
    (s.writeCmd w).overrun = true := by
  cases hlatch : s.latch with
  | none => rw [writeCmd_of_idle w hlatch, accept_overrun, h]
  | some L => rw [writeCmd_of_busy w hlatch, dropCommand_overrun]

/-- The only register write that clears OVERRUN is that of a 1 to STATUS bit 3 (R29). -/
theorem State.writeReg_clears_overrun {s : State} {v : Word} {r : Reg} (hset : s.overrun = true)
    (hclear : (s.writeReg v r).overrun = false) : r = .status ∧ v.getLsbD 3 = true := by
  cases r with
  | status =>
    have hbit : (s.overrun && !v.getLsbD 3) = false := hclear
    simpa [hset] using hbit
  | cmd => cases (overrun_writeCmd v hset).symm.trans hclear
  | ctrl | addr | payloadIn i => cases hset.symm.trans hclear
  | resAddr | resCidr | freeCblocks | freeSblocks | params | capCblocks | capSblocks | resPayload i
  | unmapped => cases hset.symm.trans hclear

theorem regAt_eq_status_iff (cfg : Config) (off : Nat) : regAt cfg off = .status ↔ off = 0x004 := by
  simp only [regAt, ite_eq_iff, reduceCtorEq, and_false, or_false, false_or, and_true]
  omega

/-- A host access that clears OVERRUN is a word write of STATUS with bit 3 set. -/
theorem hostAccess_clears_overrun {a : Access} {s s' : State} (hset : s.overrun = true)
    (h : hostAccess a s = .next s') (hclear : s'.overrun = false) :
    ∃ v, a = .write (s.cfg.base + 4) 4 v ∧ v.getLsbD 3 = true := by
  obtain ⟨_, _, off, -, -, rfl⟩ | ⟨address, bytes, v, off, rfl, hoff, rfl⟩ := hostAccess_next h
  · cases hset.symm.trans hclear
  · obtain ⟨hstatus, hbit⟩ := State.writeReg_clears_overrun hset hclear
    obtain ⟨rfl, -, -, rfl⟩ := accessOffset_ok hoff
    obtain rfl := (regAt_eq_status_iff s.cfg off).1 hstatus
    exact ⟨v, rfl, hbit⟩

/-- Settles O13: a CMD write while busy is `dropCommand`; of the events that can come next, the engine's
turn keeps OVERRUN, so the one that cleared it is the reset input or the write of STATUS. -/
theorem overrunIsSticky : Obligations.OverrunIsSticky := by
  constructor
  · intro s L w rest hinputs hbusy
    rw [step_write_cmd hinputs, State.writeCmd_of_busy (s := { s with inputs := rest }) w hbusy]
    rfl
  · intro s s' hset hstep hclear
    have turn_keeps : ∀ u : State, u.overrun = true → engineTurn u ≠ .next s' := fun u hu hturn =>
      Bool.false_ne_true (hclear.symm.trans ((engineTurn_overrun hturn).trans hu))
    obtain ⟨-, heq⟩ | ⟨a, rest, hinputs, heq⟩ | ⟨rest, -, heq⟩ | ⟨rest, hinputs, -⟩ := step_cases s
    · exact absurd (heq.symm.trans hstep) (turn_keeps s hset)
    · obtain ⟨v, rfl, hbit⟩ := hostAccess_clears_overrun (s := { s with inputs := rest }) hset
        (heq.symm.trans hstep) hclear
      exact .inl ⟨v, rest, hinputs, hbit⟩
    · exact absurd (heq.symm.trans hstep) (turn_keeps { s with inputs := rest } hset)
    · exact .inr ⟨rest, hinputs⟩

end Sys2Proof.Machine
end

section
/-! The command word: the fields that an encoded command carries (R80, R90), what the decoder answers by the
OP value and the reserved fields (R83, R84, R89), and the completions of illegal words and of a TABLE
outside the block (R86). -/

namespace Sys2Proof

/-! ### The layout of R80 -/

/-- The command word with the three fields of R80 and both reserved fields 0. -/
def commandWord (t : BitVec 8) (c : BitVec 6) (o : BitVec 4) : Word :=
  (t ++ 0#6 ++ c ++ o).setWidth 32

theorem encode_eq_commandWord (i : Instr) :
    encode i =
      commandWord (BitVec.ofNat 8 i.table) (BitVec.ofNat 6 i.cidr) (BitVec.ofNat 4 i.opcode) := rfl

section
variable (t : BitVec 8) (c : BitVec 6) (o : BitVec 4)

theorem commandWord_toNat :
    (commandWord t c o).toNat = (t.toNat <<< 16) ||| (c.toNat <<< 4) ||| o.toNat := by
  have fits : (t ++ 0#6 ++ c ++ o).toNat < 2 ^ 32 :=
    (t ++ 0#6 ++ c ++ o).isLt.trans (Nat.pow_lt_pow_right (by decide) (by decide))
  rw [commandWord, BitVec.toNat_setWidth, Nat.mod_eq_of_lt fits]
  simp only [BitVec.toNat_append, BitVec.toNat_ofNat, Nat.zero_mod, Nat.or_zero,
    Nat.shiftLeft_or_distrib, ← Nat.shiftLeft_add]

/-- The fields do not overlap, so the word is also their sum. -/
theorem commandWord_toNat_eq_sum :
    (commandWord t c o).toNat = 65536 * t.toNat + 16 * c.toNat + o.toNat := by
  have low : c.toNat <<< 4 ||| o.toNat = c.toNat <<< 4 + o.toNat :=
    (Nat.shiftLeft_add_eq_or_of_lt o.isLt _).symm
  have lowFits : c.toNat <<< 4 + o.toNat < 2 ^ 16 := by
    rw [Nat.shiftLeft_eq]; omega
  rw [commandWord_toNat, Nat.or_assoc, low, ← Nat.shiftLeft_add_eq_or_of_lt lowFits,
    Nat.shiftLeft_eq, Nat.shiftLeft_eq]
  omega

/-- Bits `start .. start + len - 1` of the word, as arithmetic on its fields. -/
theorem commandWord_bits (start len : Nat) :
    ((commandWord t c o).extractLsb' start len).toNat =
      (65536 * t.toNat + 16 * c.toNat + o.toNat) / 2 ^ start % 2 ^ len := by
  rw [BitVec.extractLsb'_toNat, commandWord_toNat_eq_sum, Nat.shiftRight_eq_div_pow]

@[simp] theorem opField_commandWord : opField (commandWord t c o) = o.toNat :=
  (commandWord_bits t c o 0 4).trans (by omega)

@[simp] theorem cidrField_commandWord : cidrField (commandWord t c o) = c.toNat :=
  (commandWord_bits t c o 4 6).trans (by omega)

@[simp] theorem rsv0Field_commandWord : rsv0Field (commandWord t c o) = 0 :=
  (commandWord_bits t c o 10 6).trans (by omega)

@[simp] theorem tableField_commandWord : tableField (commandWord t c o) = t.toNat :=
  (commandWord_bits t c o 16 8).trans (by omega)

@[simp] theorem rsv1Field_commandWord : rsv1Field (commandWord t c o) = 0 :=
  (commandWord_bits t c o 24 8).trans (by omega)

end

/-! ### The operands and OP values that fit their fields (R81, R90) -/

theorem Instr.wellFormed_iff (i : Instr) : i.wellFormed = true ↔ i.cidr < 64 ∧ i.table < 256 := by
  simp [wellFormed, cidrFits, tableFits]

theorem Instr.opcode_lt (i : Instr) : i.opcode < 0xA := by
  cases i <;> simp [opcode]

theorem commandOf_opcode (i : Instr) : commandOf i.opcode i.cidr i.table = some i := by
  cases i <;> rfl

/-- OP values 0xA and above name no command (R84). -/
theorem commandOf_reserved {op : Nat} (c t : Nat) (h : 0xA ≤ op) : commandOf op c t = none := by
  obtain ⟨n, rfl⟩ := Nat.exists_eq_add_of_le' h
  rfl

/-- Every OP value of 0x0..0x9 names a command (R81). -/
theorem commandOf_defined {op : Nat} (c t : Nat) (h : op < 0xA) : ∃ i, commandOf op c t = some i := by
  interval_cases op <;> exact ⟨_, rfl⟩

/-! ### The decoder (R89) -/

theorem decode_reservedOp {w : Word} (h : 0xA ≤ opField w) : decode w = .error .badOp := by
  simp [decode, commandOf_reserved _ _ h]

theorem decode_reservedBits {w : Word} (hop : opField w < 0xA)
    (hrsv : rsv0Field w ≠ 0 ∨ rsv1Field w ≠ 0) : decode w = .error .badCmd := by
  obtain ⟨i, hi⟩ := commandOf_defined (cidrField w) (tableField w) hop
  simp [decode, hi, hrsv]

theorem decode_command {w : Word} {i : Instr} (h0 : rsv0Field w = 0) (h1 : rsv1Field w = 0)
    (hi : commandOf (opField w) (cidrField w) (tableField w) = some i) : decode w = .ok i := by
  simp [decode, hi, h0, h1]

/-! ### The round trip (R90) -/

section
variable (i : Instr)

@[simp] theorem opField_encode : opField (encode i) = i.opcode := by
  have hop := i.opcode_lt
  rw [encode_eq_commandWord, opField_commandWord, BitVec.toNat_ofNat]
  omega

theorem cidrField_encode (h : i.cidr < 64) : cidrField (encode i) = i.cidr := by
  rw [encode_eq_commandWord, cidrField_commandWord, BitVec.toNat_ofNat]
  omega

theorem tableField_encode (h : i.table < 256) : tableField (encode i) = i.table := by
  rw [encode_eq_commandWord, tableField_commandWord, BitVec.toNat_ofNat]
  omega

@[simp] theorem rsv0Field_encode : rsv0Field (encode i) = 0 := rsv0Field_commandWord ..

@[simp] theorem rsv1Field_encode : rsv1Field (encode i) = 0 := rsv1Field_commandWord ..

end

theorem encode_toNat {i : Instr} (hc : i.cidr < 64) (ht : i.table < 256) :
    (encode i).toNat = (i.table <<< 16) ||| (i.cidr <<< 4) ||| i.opcode := by
  have hop : i.opcode < 2 ^ 4 := i.opcode_lt.trans (by decide)
  rw [encode_eq_commandWord, commandWord_toNat]
  simp only [BitVec.toNat_ofNat]
  rw [Nat.mod_eq_of_lt ht, Nat.mod_eq_of_lt hc, Nat.mod_eq_of_lt hop]

theorem decode_encode {i : Instr} (hc : i.cidr < 64) (ht : i.table < 256) :
    decode (encode i) = .ok i := by
  apply decode_command (rsv0Field_encode i) (rsv1Field_encode i)
  rw [opField_encode, cidrField_encode i hc, tableField_encode i ht]
  exact commandOf_opcode i

/-- Settles O1: each field of the encoded word reads back as the operand that fits it. -/
theorem decodeEncodeRoundTrip : Obligations.DecodeEncodeRoundTrip := by
  intro i hwf
  obtain ⟨hc, ht⟩ := i.wellFormed_iff.1 hwf
  exact ⟨encode_toNat hc ht, i.opcode_lt, decode_encode hc ht, rfl, rfl⟩

end Sys2Proof

namespace Sys2Proof.Machine

/-! ### Illegal words (R83, R84) -/

/-- An illegal word in flight completes with the decoder's error at the engine's turn (R89, R181). -/
theorem step_illegal {s : State} {L : Latch} {rest : List Event} {x : Illegal}
    (hnext : s.engineNext rest) (hlatch : s.latch = some L) (hdec : decode L.cmd = .error x) :
    step s = .next ({ s with inputs := rest }.errorCompletion (illegalErr x)) := by
  rw [step_of_engineNext hnext]
  simp [engineTurn, State.fetched, hlatch, hdec, State.raise_eq]

/-- Settles O5: the decoder answers BAD_OP for a reserved OP and BAD_CMD for a reserved bit. -/
theorem illegalWordsCompleteWithError : Obligations.IllegalWordsCompleteWithError := by
  intro s L rest hnext hlatch
  constructor
  · intro hop
    exact step_illegal hnext hlatch (decode_reservedOp hop)
  · intro hop hbits
    have hrsv : rsv0Field L.cmd ≠ 0 ∨ rsv1Field L.cmd ≠ 0 :=
      hbits.imp BitVec.toNat_ne.1 BitVec.toNat_ne.1
    exact step_illegal hnext hlatch (decode_reservedBits hop hrsv)

/-! ### A TABLE outside the block (R86) -/

/-- Check 3 of R182, in the form in which RELEASE and CREATE make it. -/
theorem latched_withTable_none {s : State} {L : Latch} {t : Nat} (hlatch : s.latch = some L)
    (ht : s.tables[t]? = none) (k : Latch → Table → Host.Outcome State Fault Refusal) :
    (withLatch s fun L => withTable t s (k L)) = .next (s.errorCompletion .badTable) := by
  rw [withLatch_some hlatch, withTable_none ht, State.raise_eq]

/-- Check 3 of R182, in the form in which the commands on a created table make it. -/
theorem latched_withLiveTable_none {s : State} {L : Latch} {t : Nat} (hlatch : s.latch = some L)
    (ht : s.tables[t]? = none) (k : Latch → Table → Host.Outcome State Fault Refusal) :
    (withLatch s fun L => withLiveTable t s (k L)) = .next (s.errorCompletion .badTable) :=
  latched_withTable_none hlatch ht _

/-- Settles O30: every command but NOP begins with check 3 of R182, which stops it. -/
theorem badTableCompletion : Obligations.BadTableCompletion := by
  intro s L i hlatch hop hrange
  have ht : s.tables[i.table]? = none := List.getElem?_eq_none hrange
  cases i with
  | nop c t => exact absurd rfl hop
  | add c t | lookup c t | delete c t | cleanup c t | clear c t | enumStart c t | enumNext c t =>
    exact latched_withLiveTable_none hlatch ht _
  | release c t | create c t => exact latched_withTable_none hlatch ht _

end Sys2Proof.Machine
end

section
/-! Addressing (41_route_ops.md section 1): the group value, the slot index and the boundary in the terms of
the leading bits of a key, and the bijection of R105. -/

namespace Sys2Proof.Machine

/-! ### Leading bits and canonical prefixes (R105) -/

/-- The first c bits of a key, as a number; for c = 3d it is the path number of the key's node at depth d
(R104). -/
def leadingBits (a : Key) (c : Nat) : Nat := a.toNat / 2 ^ (32 - c)

theorem leadingBits_lt (a : Key) {c : Nat} (hc : c ≤ 32) : leadingBits a c < 2 ^ c := by
  apply Nat.div_lt_of_lt_mul
  rw [← Nat.pow_add, Nat.sub_add_cancel hc]
  exact a.isLt

/-- Fewer leading bits are what more of them hold above their low end. -/
theorem leadingBits_div (a : Key) {c n : Nat} (h : c + n ≤ 32) :
    leadingBits a (c + n) / 2 ^ n = leadingBits a c := by
  have hpow : 32 - c = 32 - (c + n) + n := by omega
  rw [leadingBits, leadingBits, Nat.div_div_eq_div_mul, ← Nat.pow_add, hpow]

theorem toNat_maskKey (a : Key) (c : Nat) :
    (maskKey a c).toNat = leadingBits a c * 2 ^ (32 - c) := by
  have hle : leadingBits a c * 2 ^ (32 - c) ≤ a.toNat := Nat.div_mul_le_self ..
  by_cases h0 : c = 0
  · subst h0
    have hzero := leadingBits_lt a (Nat.zero_le 32)
    simp [maskKey, show leadingBits a 0 = 0 by omega]
  · rw [maskKey, if_neg h0, BitVec.toNat_shiftLeft, BitVec.toNat_ushiftRight, Nat.shiftLeft_eq,
      Nat.shiftRight_eq_div_pow]
    exact Nat.mod_eq_of_lt (hle.trans_lt a.isLt)

theorem getLsbD_maskKey (a : Key) (c : Nat) {j : Nat} (hj : j < 32) :
    (maskKey a c).getLsbD j = (a.getLsbD j && decide (32 - c ≤ j)) := by
  by_cases h0 : c = 0
  · simp [maskKey, h0, hj]
  · by_cases hle : 32 - c ≤ j
    · simp [maskKey, h0, hj, hle, Nat.not_lt.2 hle]
    · simp [maskKey, h0, hle, Nat.not_le.1 hle]

/-- Canonical prefixes of one length c are equal iff the keys agree in their first c bits. -/
theorem maskKey_eq_iff {a b : Key} {c : Nat} :
    maskKey a c = maskKey b c ↔ leadingBits a c = leadingBits b c := by
  rw [← BitVec.toNat_inj, toNat_maskKey, toNat_maskKey,
    Nat.mul_left_inj (Nat.two_pow_pos _).ne']

theorem maskKey_eq_of_le {a b : Key} {c n : Nat} (h : c + n ≤ 32)
    (hab : maskKey a (c + n) = maskKey b (c + n)) : maskKey a c = maskKey b c := by
  rw [maskKey_eq_iff] at hab ⊢
  rw [← leadingBits_div a h, hab, leadingBits_div b h]

/-! ### The group value (R100) -/

theorem group_of_le {a : Key} {d : Nat} (hd : d ≤ 9) :
    (group a d).val = (a.extractLsb' (29 - 3 * d) 3).toNat := by
  rw [group, if_pos hd, Fin.val_ofNat, Nat.mod_eq_of_lt (BitVec.isLt _)]

theorem group_ten (a : Key) : (group a 10).val = (a.extractLsb' 0 2 ++ 0#1).toNat := by
  rw [group, if_neg (by decide), Fin.val_ofNat, Nat.mod_eq_of_lt (BitVec.isLt _)]

/-- Settles O6: the three bits of the extracted field, and the appended 0 below the last two bits. -/
theorem groupValueBits : Obligations.GroupValueBits := by
  intro a d
  refine ⟨fun hd j hj => ?_, ?_, ?_, ?_⟩
  · rw [group_of_le hd, BitVec.testBit_toNat, BitVec.getLsbD_extractLsb']
    simp [hj]
  all_goals
    rw [group_ten, BitVec.testBit_toNat, BitVec.getLsbD_append]
    simp

/-- Above depth 10 the group is the last of the octal digits that the path takes in. -/
theorem group_eq_leadingBits {a : Key} {d : Nat} (hd : d ≤ 9) :
    (group a d).val = leadingBits a (3 * d + 3) % 8 := by
  have hshift : 32 - (3 * d + 3) = 29 - 3 * d := by omega
  rw [group_of_le hd, BitVec.extractLsb'_toNat, Nat.shiftRight_eq_div_pow, leadingBits, hshift]

theorem group_ten_eq (a : Key) : (group a 10).val = 2 * (a.toNat % 4) := by
  rw [group_ten, BitVec.toNat_append, BitVec.extractLsb'_toNat, Nat.shiftLeft_eq]
  simp [Nat.mul_comm]

/-- Each level of the path appends its group to the path number (R104). -/
theorem leadingBits_succ_group {a : Key} {d : Nat} (hd : d ≤ 9) :
    leadingBits a (3 * (d + 1)) = 8 * leadingBits a (3 * d) + (group a d).val := by
  have hdiv := leadingBits_div a (c := 3 * d) (n := 3) (by omega)
  rw [group_eq_leadingBits hd, ← hdiv]
  exact (Nat.div_add_mod _ 8).symm

/-- Keys share the node at depth d iff they agree in their first 3d bits (R103, R105). -/
theorem maskKey_eq_iff_groups {a b : Key} {d : Nat} (hd : d ≤ 10) :
    maskKey a (3 * d) = maskKey b (3 * d) ↔ ∀ i, i < d → group a i = group b i := by
  rw [maskKey_eq_iff]
  induction d with
  | zero =>
    have ha := leadingBits_lt a (Nat.zero_le 32)
    have hb := leadingBits_lt b (Nat.zero_le 32)
    simp only [Nat.mul_zero, Nat.not_lt_zero, false_imp_iff, implies_true, iff_true]
    omega
  | succ d ih =>
    rw [leadingBits_succ_group (by omega), leadingBits_succ_group (by omega)]
    simp only [Nat.lt_succ_iff_lt_or_eq, or_imp, forall_and, forall_eq]
    rw [← ih (by omega), Fin.ext_iff]
    omega

/-! ### The slot index (R101) -/

theorem slotIndex_val {k v : Nat} (hk : k ≤ 3) (hv : v < 2 ^ k) :
    (slotIndex k v).val = (2 ^ k - 1) + v := by
  have hpow : 2 ^ k ≤ 2 ^ 3 := Nat.pow_le_pow_right (by decide) hk
  rw [slotIndex, Fin.val_ofNat, Nat.mod_eq_of_lt (by omega)]

/-- The inverse on the pairs, by the table of R101. -/
theorem slotK_slotIndex {k v : Nat} (hk : k ≤ 3) (hv : v < 2 ^ k) : slotK (slotIndex k v) = k := by
  have table : ∀ k, k ≤ 3 → ∀ v, v < 2 ^ k → slotK (slotIndex k v) = k := by decide
  exact table k hk v hv

theorem slotV_slotIndex {k v : Nat} (hk : k ≤ 3) (hv : v < 2 ^ k) : slotV (slotIndex k v) = v := by
  have hpos := Nat.two_pow_pos k
  rw [slotV, slotK_slotIndex hk hv, slotIndex_val hk hv]
  omega

/-- The inverse on the slots, by the table of R101. -/
theorem slot_table : ∀ s : Fin 15, slotIndex (slotK s) (slotV s) = s ∧
    slotK s = Nat.log2 (s.val + 1) ∧ slotK s ≤ 3 ∧ slotV s < 2 ^ slotK s := by
  decide

/-- The slots 0..6 are the rows k = 0, 1 and 2 of the table. -/
theorem slotK_le_two : ∀ {s : Fin 15}, s.val ≤ 6 → slotK s ≤ 2 := by
  decide

theorem slotIndex_lt_of_lt {k v k' v' : Nat} (hk : k ≤ 3) (hk' : k' ≤ 3) (hv : v < 2 ^ k)
    (hv' : v' < 2 ^ k') (h : k < k' ∨ k = k' ∧ v < v') :
    (slotIndex k v).val < (slotIndex k' v').val := by
  rw [slotIndex_val hk hv, slotIndex_val hk' hv']
  have hpos := Nat.two_pow_pos k
  obtain hlt | ⟨rfl, hlt⟩ := h
  · have hpow : 2 ^ (k + 1) ≤ 2 ^ k' := Nat.pow_le_pow_right (by decide) hlt
    rw [Nat.pow_succ] at hpow
    omega
  · omega

/-- Settles O7: the index and its inverse undo each other on both sides, and a larger k starts above every
slot of a smaller one. -/
theorem slotIndexBijection : Obligations.SlotIndexBijection := by
  refine ⟨fun k v hk hv => ⟨slotIndex_val hk hv, slotK_slotIndex hk hv, slotV_slotIndex hk hv⟩,
    fun s => ?_, fun k v k' v' => slotIndex_lt_of_lt⟩
  obtain ⟨hslot, hlog, hk, hv⟩ := slot_table s
  exact ⟨hslot, hlog, rfl, hk, hv⟩

/-! ### The boundary (R102) -/

section
variable (a : Key) (c : Nat)

@[simp] theorem boundary_depth : (boundary a c).depth = c / 3 := rfl

theorem boundary_slot : (boundary a c).slot = slotIndex (c % 3) (boundary a c).v := rfl

theorem boundary_v : (boundary a c).v = (group a (c / 3)).val / 2 ^ (3 - c % 3) :=
  Nat.shiftRight_eq_div_pow ..

theorem boundary_v_lt : (boundary a c).v < 2 ^ (c % 3) := by
  have hk : c % 3 ≤ 3 := by omega
  rw [boundary_v]
  apply Nat.div_lt_of_lt_mul
  rw [← Nat.pow_add, Nat.sub_add_cancel hk]
  exact (group a (c / 3)).isLt

theorem boundary_slot_val : (boundary a c).slot.val = (2 ^ (c % 3) - 1) + (boundary a c).v :=
  slotIndex_val (by omega) (boundary_v_lt a c)

@[simp] theorem slotK_boundary : slotK (boundary a c).slot = c % 3 :=
  slotK_slotIndex (by omega) (boundary_v_lt a c)

@[simp] theorem slotV_boundary : slotV (boundary a c).slot = (boundary a c).v :=
  slotV_slotIndex (by omega) (boundary_v_lt a c)

theorem boundary_slot_le : (boundary a c).slot.val ≤ 6 := by
  have hv := boundary_v_lt a c
  have hpow : 2 ^ (c % 3) ≤ 2 ^ 2 := Nat.pow_le_pow_right (by decide) (by omega)
  rw [boundary_slot_val]
  omega

end

/-- Settles O8: the parts of the boundary, with v below 2^k. -/
theorem boundaryOfPrefix : Obligations.BoundaryOfPrefix := by
  intro a c hc
  refine ⟨rfl, rfl, rfl, rfl, fun hk => ?_, boundary_slot_val a c, boundary_slot_le a c, ?_⟩
  · have hv := boundary_v_lt a c
    rw [hk] at hv
    omega
  · rw [boundary_depth]
    omega

/-- The local slot value is the last k of the first c bits, those below the path to the node (R102). -/
theorem boundary_v_eq_leadingBits (a : Key) {c : Nat} (hc : c ≤ 32) :
    (boundary a c).v = leadingBits a c % 2 ^ (c % 3) := by
  rw [boundary_v]
  by_cases hd : c / 3 ≤ 9
  · have hlen : 3 * (c / 3) + 3 = c + (3 - c % 3) := by omega
    have hpow : 8 = 2 ^ (3 - c % 3) * 2 ^ (c % 3) := by
      rw [← Nat.pow_add, Nat.sub_add_cancel (by omega)]
    rw [group_eq_leadingBits hd, hlen, hpow, Nat.mod_mul_right_div_self,
      leadingBits_div a (by omega)]
  · rw [show c / 3 = 10 by omega, group_ten_eq, leadingBits]
    obtain rfl | rfl | rfl : c = 30 ∨ c = 31 ∨ c = 32 := by omega
    all_goals
      simp only [Nat.reduceMod, Nat.reduceSub, Nat.reducePow]
      omega

/-- The first c bits are the path to the boundary's node followed by the local slot value. -/
theorem leadingBits_eq (a : Key) {c : Nat} (hc : c ≤ 32) :
    leadingBits a c = leadingBits a (3 * (c / 3)) * 2 ^ (c % 3) + (boundary a c).v := by
  have hdiv := leadingBits_div a (c := 3 * (c / 3)) (n := c % 3) (by omega)
  rw [Nat.div_add_mod] at hdiv
  rw [boundary_v_eq_leadingBits a hc, ← hdiv, Nat.div_add_mod']

/-- Canonical prefixes of one length are named by their node and their slot there (R105). -/
theorem maskKey_eq_iff_boundary {a b : Key} {c : Nat} (hc : c ≤ 32) :
    maskKey a c = maskKey b c ↔
      maskKey a (3 * (c / 3)) = maskKey b (3 * (c / 3)) ∧
        (boundary a c).slot = (boundary b c).slot := by
  constructor
  · intro hab
    have hbits := maskKey_eq_iff.1 hab
    refine ⟨maskKey_eq_of_le (n := c % 3) (by omega) (by rwa [Nat.div_add_mod]), ?_⟩
    rw [boundary_slot, boundary_slot, boundary_v_eq_leadingBits a hc,
      boundary_v_eq_leadingBits b hc, hbits]
  · rintro ⟨hpath, hslot⟩
    have hv : (boundary a c).v = (boundary b c).v := by
      rw [← slotV_boundary a c, hslot, slotV_boundary]
    rw [maskKey_eq_iff] at hpath ⊢
    rw [leadingBits_eq a hc, leadingBits_eq b hc, hpath, hv]

/-! ### The prefixes of the slots (R104) -/

/-- Prefixes of the slots of rows 0..2 are the path number followed by the local slot value. -/
theorem toNat_prefixAddr {d p : Nat} {s : Fin 15} (hd : d ≤ 10) (hp : p < 8 ^ d) (hk : slotK s ≤ 2) :
    (prefixAddr d p s).toNat =
      (p * 2 ^ slotK s + slotV s) * 2 ^ (32 - prefixLen d s) := by
  obtain ⟨-, -, -, hv⟩ := slot_table s
  have hlen : 32 - 3 * d - slotK s = 32 - prefixLen d s := by unfold prefixLen; omega
  have hshift : 32 - 3 * d = slotK s + (32 - prefixLen d s) := by unfold prefixLen; omega
  have hdisjoint : (p <<< slotK s) ||| slotV s = p * 2 ^ slotK s + slotV s := by
    rw [← Nat.shiftLeft_add_eq_or_of_lt hv, Nat.shiftLeft_eq]
  have hfits : (p * 2 ^ slotK s + slotV s) * 2 ^ (32 - prefixLen d s) < 2 ^ 32 := by
    have hsum : p * 2 ^ slotK s + slotV s < 2 ^ prefixLen d s := by
      calc p * 2 ^ slotK s + slotV s < (p + 1) * 2 ^ slotK s := by rw [Nat.succ_mul]; omega
        _ ≤ 8 ^ d * 2 ^ slotK s := Nat.mul_le_mul_right _ hp
        _ = 2 ^ prefixLen d s := by rw [prefixLen, Nat.pow_add, Nat.pow_mul]
    calc _ < 2 ^ prefixLen d s * 2 ^ (32 - prefixLen d s) :=
          Nat.mul_lt_mul_of_pos_right hsum (Nat.two_pow_pos _)
      _ = 2 ^ 32 := by rw [← Nat.pow_add]; congr 1; unfold prefixLen; omega
  rw [prefixAddr, hlen, hshift, Nat.shiftLeft_add, ← Nat.shiftLeft_or_distrib, hdisjoint,
    BitVec.toNat_ofNat, Nat.shiftLeft_eq, Nat.mod_eq_of_lt hfits]

theorem prefixLen_boundary (a : Key) (c : Nat) : prefixLen (c / 3) (boundary a c).slot = c := by
  rw [prefixLen, slotK_boundary, Nat.div_add_mod]

/-- Canonical prefixes are given back by the slots they name (R105). -/
theorem prefixAddr_boundary (a : Key) {c : Nat} (hc : c ≤ 32) :
    prefixAddr (c / 3) (a.toNat >>> (32 - 3 * (c / 3))) (boundary a c).slot = maskKey a c := by
  have hpath : a.toNat >>> (32 - 3 * (c / 3)) = leadingBits a (3 * (c / 3)) :=
    Nat.shiftRight_eq_div_pow ..
  have hp : leadingBits a (3 * (c / 3)) < 8 ^ (c / 3) := by
    have hlt := leadingBits_lt a (c := 3 * (c / 3)) (by omega)
    rwa [Nat.pow_mul] at hlt
  rw [← BitVec.toNat_inj, hpath, toNat_prefixAddr (by omega) hp (by rw [slotK_boundary]; omega),
    prefixLen_boundary, slotK_boundary, slotV_boundary, ← leadingBits_eq a hc, toNat_maskKey]

section
variable {d p : Nat} {s : Fin 15} (hd : d ≤ 10) (hp : p < 8 ^ d) (hs : s.val ≤ 6)
include hd hp hs

theorem leadingBits_prefixAddr :
    leadingBits (prefixAddr d p s) (prefixLen d s) = p * 2 ^ slotK s + slotV s := by
  rw [leadingBits, toNat_prefixAddr hd hp (slotK_le_two hs), Nat.mul_div_cancel _ (Nat.two_pow_pos _)]

theorem maskKey_prefixAddr : maskKey (prefixAddr d p s) (prefixLen d s) = prefixAddr d p s := by
  have hk := slotK_le_two hs
  rw [← BitVec.toNat_inj, toNat_maskKey,
    leadingBits_prefixAddr hd hp hs, toNat_prefixAddr hd hp hk]

theorem boundary_prefixAddr_slot : (boundary (prefixAddr d p s) (prefixLen d s)).slot = s := by
  obtain ⟨hslot, -, -, hv⟩ := slot_table s
  have hk := slotK_le_two hs
  have hmod : prefixLen d s % 3 = slotK s := by unfold prefixLen; omega
  rw [boundary_slot, boundary_v_eq_leadingBits _ (by unfold prefixLen; omega),
    leadingBits_prefixAddr hd hp hs, hmod, Nat.mul_add_mod_of_lt hv, hslot]

theorem prefixAddr_path : (prefixAddr d p s).toNat >>> (32 - 3 * d) = p := by
  obtain ⟨-, -, -, hv⟩ := slot_table s
  have hk := slotK_le_two hs
  have hdiv := leadingBits_div (prefixAddr d p s) (c := 3 * d) (n := slotK s) (by omega)
  rw [← prefixLen, leadingBits_prefixAddr hd hp hs] at hdiv
  rw [Nat.shiftRight_eq_div_pow, ← leadingBits, ← hdiv, Nat.mul_comm,
    Nat.mul_add_div (Nat.two_pow_pos _), Nat.div_eq_of_lt hv, Nat.add_zero]

end

/-- Settles O9: canonical prefixes are leading bits, which are the path number followed by the slot value;
that pair names the node and the slot, and gives the leading bits back. -/
theorem canonicalPrefixBijection : Obligations.CanonicalPrefixBijection := by
  constructor
  · intro a c hc
    refine ⟨fun j => getLsbD_maskKey a c, fun b hab => ?_, prefixAddr_boundary a hc,
      prefixLen_boundary a c⟩
    obtain ⟨hpath, hslot⟩ := (maskKey_eq_iff_boundary hc).1 hab
    exact ⟨hslot, (maskKey_eq_iff_groups (by omega)).1 hpath⟩
  · intro d p s hd hp hs
    have hk := slotK_le_two hs
    refine ⟨by unfold prefixLen; omega, maskKey_prefixAddr hd hp hs, ?_,
      boundary_prefixAddr_slot hd hp hs, prefixAddr_path hd hp hs⟩
    rw [boundary_depth]
    unfold prefixLen
    omega

end Sys2Proof.Machine
end

section
/-! The routes that a table stores (R16, R103): what ADD and DELETE write of them (R110, R112, R120), and what
the counting walk counts (R111). -/

namespace Sys2Proof.Machine

/-! ### The record of a child, or the empty node -/

theorem Node.kidOrEmpty_of_present {n : Node} {g : Fin 8} (h : n.present g = true) :
    n.kidOrEmpty g = n.kid g := if_pos h

theorem Node.kidOrEmpty_of_absent {n : Node} {g : Fin 8} (h : n.present g = false) :
    n.kidOrEmpty g = .empty := by simp [kidOrEmpty, h]

@[simp] theorem Node.kidOrEmpty_empty (g : Fin 8) : Node.empty.kidOrEmpty g = .empty :=
  kidOrEmpty_of_absent (present_empty g)

@[simp] theorem Node.kidOrEmpty_setSblk (n : Node) (b : Option SlotBlock) (g : Fin 8) :
    (n.setSblk b).kidOrEmpty g = n.kidOrEmpty g := by simp [kidOrEmpty]

@[simp] theorem Node.kidOrEmpty_storeRoute (n : Node) (s : Fin 15) (p : Payload) (g : Fin 8) :
    (n.storeRoute s p).node.kidOrEmpty g = n.kidOrEmpty g := by simp [kidOrEmpty]

/-- ADD's descent replaces the record of its group and no other, absent ones included (R110). -/
theorem kidOrEmpty_insertFrom (a : Key) (s : Fin 15) (p : Payload) (rem d : Nat) (n : Node) (g : Fin 8) :
    (insertFrom a s p (rem + 1) d n).node.kidOrEmpty g =
      if g = group a d then (insertFrom a s p rem (d + 1) (n.kidOrEmpty (group a d))).node
      else n.kidOrEmpty g := by
  rw [Node.kidOrEmpty, insertFrom_succ_present, insertFrom_succ_kid]
  by_cases hg : g = group a d
  · simp [hg]
  · simp [hg, Node.kidOrEmpty]

theorem kidOrEmpty_replaceFrom {a : Key} {d : Nat} {n : Node} (hn : n.present (group a d) = true)
    (new : Node) (rem : Nat) (g : Fin 8) :
    (replaceFrom a new (rem + 1) d n).kidOrEmpty g =
      if g = group a d then replaceFrom a new rem (d + 1) (n.kid (group a d)) else n.kidOrEmpty g := by
  rw [Node.kidOrEmpty, replaceFrom_succ_present, replaceFrom_succ _ _ _ _ _ hn]
  by_cases hg : g = group a d
  · simp [hg, hn]
  · simp [hg, Node.kidOrEmpty]

/-! ### Routes along a walk (R103) -/

/-- The route at slot s of the node that `rem` steps along the key's path lead to, from a node at depth d. -/
def routeFrom (a : Key) (rem d : Nat) (n : Node) (s : Fin 15) : Option Payload :=
  (findFrom a rem d n).bind fun m => m.route s

theorem routeAt_eq_bind (root : Node) (a : Key) (d : Nat) (s : Fin 15) :
    routeAt root a d s = (root.find a d).bind fun n => n.route s := by
  unfold routeAt
  cases root.find a d <;> rfl

theorem routeAt_eq_routeFrom (root : Node) (a : Key) (d : Nat) (s : Fin 15) :
    routeAt root a d s = routeFrom a d 0 root s := routeAt_eq_bind root a d s

theorem storedAt_eq_routeAt (root : Node) (a : Key) (c : Nat) :
    storedAt root a c = routeAt root a (c / 3) (boundary a c).slot := rfl

@[simp] theorem routeFrom_zero (a : Key) (d : Nat) (n : Node) (s : Fin 15) :
    routeFrom a 0 d n s = n.route s := rfl

@[simp] theorem routeFrom_empty (a : Key) (rem d : Nat) (s : Fin 15) :
    routeFrom a rem d .empty s = none := by
  cases rem with
  | zero => exact Node.route_empty s
  | succ rem => simp [routeFrom, findFrom_succ]

/-- An absent child reads as the empty node, so a step of the walk needs no case split. -/
theorem routeFrom_succ (a : Key) (rem d : Nat) (n : Node) (s : Fin 15) :
    routeFrom a (rem + 1) d n s = routeFrom a rem (d + 1) (n.kidOrEmpty (group a d)) s := by
  cases hp : n.present (group a d) with
  | true => rw [Node.kidOrEmpty_of_present hp, routeFrom, findFrom_succ, if_pos hp, routeFrom]
  | false =>
    rw [Node.kidOrEmpty_of_absent hp, routeFrom_empty]
    simp [routeFrom, findFrom_succ, hp]

/-- A route depends only on the path to its node (R18, R105). -/
theorem routeAt_congr {a b : Key} {d : Nat} (hd : d ≤ 10) (h : maskKey a (3 * d) = maskKey b (3 * d))
    (root : Node) (s : Fin 15) : routeAt root a d s = routeAt root b d s := by
  have hfind : root.find a d = root.find b d :=
    findFrom_congr root fun i _ hi => (maskKey_eq_iff_groups hd).1 h i (by omega)
  rw [routeAt_eq_bind, routeAt_eq_bind, hfind]

theorem find_succ (root : Node) (a : Key) (d : Nat) :
    root.find a (d + 1) = (root.find a d).bind fun n =>
      if n.present (group a d) then some (n.kid (group a d)) else none := by
  rw [Node.find, findFrom_add, Nat.zero_add]
  rfl

/-- Below a node that does not exist there is none (R18). -/
theorem find_eq_none_of_le {root : Node} {a : Key} {d e : Nat} (h : root.find a d = none)
    (hde : d ≤ e) : root.find a e = none := by
  obtain ⟨q, rfl⟩ := Nat.exists_eq_add_of_le hde
  rw [Node.find, findFrom_add]
  exact congrArg (Option.bind · _) h

/-! ### Writing one slot -/

/-- The walks of `rem` steps from depth d lead both keys to the same node. -/
def SamePath (a b : Key) (d rem : Nat) : Prop := ∀ i, d ≤ i → i < d + rem → group a i = group b i

theorem samePath_succ {a b : Key} {d rem : Nat} (hg : group a d = group b d)
    (h : SamePath a b (d + 1) rem) : SamePath a b d (rem + 1) := by
  intro i hi hlt
  obtain rfl | hi := hi.eq_or_lt
  · exact hg
  · exact h i hi (by omega)

theorem samePath_zero_iff {a b : Key} {d : Nat} (hd : d ≤ 10) :
    SamePath a b 0 d ↔ maskKey a (3 * d) = maskKey b (3 * d) := by
  rw [maskKey_eq_iff_groups hd]
  simp [SamePath]

/-- `root'` stores q (none: no route) for (a, c), at the slot of its boundary, and every other
slot of every node reads as in `root`: law (iii) of R112, and what R120 says of DELETE. -/
structure RouteUpdate (root root' : Node) (a : Key) (c : Nat) (q : Option Payload) : Prop where
  here : routeAt root' a (c / 3) (boundary a c).slot = q
  elsewhere : ∀ (b : Key) (d : Nat) (s : Fin 15),
    ¬ (d = c / 3 ∧ s = (boundary a c).slot ∧ maskKey b (3 * d) = maskKey a (3 * d)) →
      routeAt root' b d s = routeAt root b d s

/-- An update of (a, c) is seen under its canonical form and under no other of the stored prefixes. -/
theorem RouteUpdate.storedAt_eq {root root' : Node} {a : Key} {c : Nat} {q : Option Payload}
    (h : RouteUpdate root root' a c q) (hc : c ≤ 32) (b : Key) (d : Nat) :
    storedAt root' b d =
      if d = c ∧ maskKey b c = maskKey a c then q else storedAt root b d := by
  split
  · next heq =>
    obtain ⟨rfl, hmask⟩ := heq
    obtain ⟨hpath, hslot⟩ := (maskKey_eq_iff_boundary hc).1 hmask
    rw [storedAt_eq_routeAt, hslot, routeAt_congr (by omega) hpath, h.here]
  · next hne =>
    apply h.elsewhere
    rintro ⟨hdepth, hslot, hpath⟩
    have hk : d % 3 = c % 3 := by rw [← slotK_boundary b d, hslot, slotK_boundary]
    rw [boundary_depth] at hdepth
    obtain rfl : d = c := by omega
    exact hne ⟨rfl, (maskKey_eq_iff_boundary hc).2 ⟨hpath, hslot⟩⟩

/-! ### ADD (R110, R112) -/

section
variable (a : Key) (s : Fin 15) (p : Payload)

/-- Law (i) of R112. -/
theorem routeFrom_insertFrom (rem d : Nat) (n : Node) :
    routeFrom a rem d (insertFrom a s p rem d n).node s = some p := by
  induction rem generalizing d n with
  | zero => simp [Node.route_storeRoute]
  | succ rem ih => rw [routeFrom_succ, kidOrEmpty_insertFrom, if_pos rfl, ih]

/-- Law (ii) of R112. -/
theorem find_insertFrom_isSome {r rem : Nat} (hr : r ≤ rem) (d : Nat) (n : Node) :
    (findFrom a r d (insertFrom a s p rem d n).node).isSome = true := by
  induction r generalizing rem d n with
  | zero => rfl
  | succ r ih =>
    obtain ⟨rem, rfl⟩ := Nat.exists_eq_add_of_le' (Nat.zero_lt_of_lt hr)
    rw [findFrom_succ, insertFrom_succ_present, insertFrom_succ_kid]
    simpa using ih (by omega) (d + 1) _

/-- Law (iii) of R112: off the written slot every walk reads what it read before. -/
theorem routeFrom_insertFrom_of_ne {b : Key} {t : Fin 15} (r rem d : Nat) (n : Node)
    (h : ¬ (r = rem ∧ t = s ∧ SamePath b a d rem)) :
    routeFrom b r d (insertFrom a s p rem d n).node t = routeFrom b r d n t := by
  induction rem generalizing r d n with
  | zero =>
    cases r with
    | zero =>
      have ht : t ≠ s := fun ht => h ⟨rfl, ht, fun i hi hlt => by omega⟩
      simp [Node.route_storeRoute, ht]
    | succ r => simp [routeFrom_succ]
  | succ rem ih =>
    cases r with
    | zero => simp
    | succ r =>
      rw [routeFrom_succ, routeFrom_succ, kidOrEmpty_insertFrom]
      split
      · next hg =>
        rw [hg]
        exact ih r (d + 1) _ fun ⟨hr, ht, hpath⟩ => h ⟨by rw [hr], ht, samePath_succ hg hpath⟩
      · rfl

end

theorem routeUpdate_insert (root : Node) (a : Key) {c : Nat} (p : Payload) (hc : c ≤ 32) :
    RouteUpdate root (root.insert a c p).node a c (some p) where
  here := by
    rw [routeAt_eq_routeFrom]
    exact routeFrom_insertFrom a (boundary a c).slot p (c / 3) 0 root
  elsewhere := by
    intro b d s hne
    rw [routeAt_eq_routeFrom, routeAt_eq_routeFrom]
    apply routeFrom_insertFrom_of_ne
    rintro ⟨rfl, rfl, hpath⟩
    exact hne ⟨rfl, rfl, (samePath_zero_iff (by rw [boundary_depth]; omega)).1 hpath⟩

/-! ### DELETE (R120) -/

section
variable {a : Key} {m : Node} (new : Node)

theorem routeFrom_replaceFrom {rem d : Nat} {n : Node} (hm : findFrom a rem d n = some m) (s : Fin 15) :
    routeFrom a rem d (replaceFrom a new rem d n) s = new.route s := by
  induction rem generalizing d n with
  | zero => rfl
  | succ rem ih =>
    rw [findFrom_succ, Option.ite_none_right_eq_some] at hm
    obtain ⟨hp, hm⟩ := hm
    rw [routeFrom_succ, kidOrEmpty_replaceFrom hp, if_pos rfl, ih hm]

/-- Where the new node differs from the old one in one slot only, so do the tries. -/
theorem routeFrom_replaceFrom_of_ne {b : Key} {s t : Fin 15} {rem d : Nat} {n : Node}
    (hm : findFrom a rem d n = some m) (hroute : t ≠ s → new.route t = m.route t)
    (hkid : ∀ g, new.kidOrEmpty g = m.kidOrEmpty g) (r : Nat)
    (h : ¬ (r = rem ∧ t = s ∧ SamePath b a d rem)) :
    routeFrom b r d (replaceFrom a new rem d n) t = routeFrom b r d n t := by
  induction rem generalizing r d n with
  | zero =>
    cases hm
    cases r with
    | zero => exact hroute fun ht => h ⟨rfl, ht, fun i hi hlt => by omega⟩
    | succ r =>
      rw [routeFrom_succ, routeFrom_succ]
      exact congrArg (routeFrom b r (d + 1) · t) (hkid _)
  | succ rem ih =>
    rw [findFrom_succ, Option.ite_none_right_eq_some] at hm
    obtain ⟨hp, hm⟩ := hm
    cases r with
    | zero => simp
    | succ r =>
      rw [routeFrom_succ, routeFrom_succ, kidOrEmpty_replaceFrom hp]
      split
      · next hg =>
        rw [hg, Node.kidOrEmpty_of_present hp]
        exact ih hm r fun ⟨hr, ht, hpath⟩ => h ⟨by rw [hr], ht, samePath_succ hg hpath⟩
      · rfl

end

/-- Vacating a slot removes its route and no other (R120). -/
theorem Node.route_vacate {n : Node} {b : SlotBlock} (hb : n.sblk = some b) (s t : Fin 15) :
    (n.setSblk (some (b.vacate s))).route t = if t = s then none else n.route t := by
  by_cases hts : t = s <;> simp [Node.route_eq, hb, SlotBlock.occupied_vacate, hts]

theorem routeUpdate_remove {root root' : Node} {a : Key} {c : Nat} (hc : c ≤ 32)
    (h : root.remove a c = some root') : RouteUpdate root root' a c none := by
  obtain ⟨hnone, -⟩ | ⟨n, b, hfind, hb, -, -, hsome⟩ := root.remove_cases a c
  · cases hnone.symm.trans h
  · cases hsome.symm.trans h
    have hroute := Node.route_vacate hb (boundary a c).slot
    constructor
    · rw [routeAt_eq_routeFrom]
      exact (routeFrom_replaceFrom _ hfind _).trans (by rw [hroute, if_pos rfl])
    · intro b' d s hne
      rw [routeAt_eq_routeFrom, routeAt_eq_routeFrom]
      apply routeFrom_replaceFrom_of_ne (s := (boundary a c).slot) _ hfind
      · intro hs
        rw [hroute, if_neg hs]
      · exact Node.kidOrEmpty_setSblk n _
      · rintro ⟨rfl, rfl, hpath⟩
        exact hne ⟨rfl, rfl, (samePath_zero_iff (by rw [boundary_depth]; omega)).1 hpath⟩

/-! ### Legal nodes (R19, R20) -/

theorem Node.legal_kid {bits d : Nat} {n : Node} {g : Fin 8} (h : n.legal bits d = true)
    (hp : n.present g = true) : (n.kid g).legal bits (d + 1) = true := by
  cases n with
  | bare b => cases Node.calloc_of_present hp
  | full b m k0 k1 k2 k3 k4 k5 k6 k7 =>
    simp only [Node.legal, recordLegal, Bool.and_eq_true] at h
    fin_cases g <;> simp_all [Node.present, Node.cmask, Node.kid]

theorem Node.blockLegal_of_legal {bits d : Nat} {n : Node} (h : n.legal bits d = true) :
    blockLegal bits n.sblk = true := by
  cases n <;> simp_all [Node.legal, Node.sblk]

/-- A legal node owns a child block iff its cmask is not 0 (R19). -/
theorem Node.cmask_ne_zero_iff_of_legal {bits d : Nat} {n : Node} (h : n.legal bits d = true) :
    n.cmask ≠ 0 ↔ n.calloc = true := by
  cases n <;> simp_all [Node.legal, Node.cmask, Node.calloc]

theorem legal_findFrom {bits rem d : Nat} {a : Key} {n m : Node} (h : n.legal bits d = true)
    (hm : findFrom a rem d n = some m) : m.legal bits (d + rem) = true := by
  induction rem generalizing d n with
  | zero => cases hm; exact h
  | succ rem ih =>
    rw [findFrom_succ, Option.ite_none_right_eq_some] at hm
    obtain ⟨hp, hm⟩ := hm
    rw [← Nat.add_assoc, Nat.add_right_comm]
    exact ih (Node.legal_kid h hp) hm

/-- The slots 7..14 of a legal node hold no route (R20). -/
theorem Node.route_k3_of_legal {bits d : Nat} {n : Node} (h : n.legal bits d = true) {s : Fin 15}
    (hs : 7 ≤ s.val) : n.route s = none := by
  have hb := Node.blockLegal_of_legal h
  cases hblk : n.sblk with
  | none => simp [Node.route_eq, hblk]
  | some b =>
    simp only [hblk, blockLegal, Bool.and_eq_true, decide_eq_true_eq] at hb
    have hbit := congrArg (BitVec.getLsbD · (s.val - 7)) hb.1
    simp only [BitVec.getLsbD_extractLsb', Nat.add_sub_cancel' hs] at hbit
    have hocc : b.occupied s = false := by
      simpa [SlotBlock.occupied, show s.val - 7 < 9 by omega] using hbit
    simp [Node.route_eq, hblk, hocc]

/-! ### The counting walk (R111) -/

theorem nextNode_getD (m : Option Node) (g : Fin 8) :
    (nextNode m g).getD .empty = (m.getD .empty).kidOrEmpty g := by
  cases m with
  | none => simp [nextNode]
  | some n => cases hp : n.present g <;> simp [nextNode, hp, Node.kidOrEmpty]

/-- The walk counts the blocks that the descent allocates; a node that does not exist counts as the empty
one that ADD makes there. -/
theorem needFrom_eq_insertFrom (a : Key) (s : Fin 15) (p : Payload) (bits : Nat) {rem d : Nat}
    {m : Option Node} (h : ∀ n, m = some n → n.legal bits d = true) :
    needFrom a rem d m = ((insertFrom a s p rem d (m.getD .empty)).nc,
      (insertFrom a s p rem d (m.getD .empty)).ns) := by
  induction rem generalizing d m with
  | zero =>
    obtain ⟨hnc, hns⟩ := Node.counts_storeRoute (m.getD .empty) s p
    rw [insertFrom_zero, hnc, hns]
    cases m <;> rfl
  | succ rem ih =>
    have hnext : ∀ n, nextNode m (group a d) = some n → n.legal bits (d + 1) = true := by
      intro n hn
      cases m with
      | none => cases hn
      | some m =>
        rw [nextNode, Option.ite_none_right_eq_some] at hn
        obtain ⟨hp, ⟨⟩⟩ := hn
        exact Node.legal_kid (h m rfl) hp
    have hown : ownsChildren m = (m.getD .empty).calloc := by
      cases m with
      | none => rfl
      | some m =>
        rw [Bool.eq_iff_iff, ownsChildren, decide_eq_true_eq]
        exact Node.cmask_ne_zero_iff_of_legal (h m rfl)
    obtain ⟨hnc, hns, -⟩ := insertFrom_succ_counts a s p rem d (m.getD .empty)
    rw [hnc, hns, needFrom, ih hnext, nextNode_getD, hown]

/-- Law (iv) of R112, in the terms of the trie. -/
theorem Node.need_eq_insert {bits : Nat} {root : Node} (h : root.legal bits 0 = true) (a : Key) (c : Nat)
    (p : Payload) :
    root.need a (c / 3) = ((root.insert a c p).nc, (root.insert a c p).ns) :=
  needFrom_eq_insertFrom a _ p bits fun n hn => by cases hn; exact h

end Sys2Proof.Machine
end

section
/-! The route commands (41_route_ops.md): LOOKUP as the longest match (R116), the ADD laws (R112), and
what LOOKUP finds after ADD and after DELETE (R125, R127). -/

namespace Sys2Proof.Machine

/-! ### The longest match -/

/-- The first value that f gives at n - 1, n - 2, .., 0: for the routes stored under a key by their length,
the one of the longest among the prefixes shorter than n. -/
def longestBelow (f : Nat → Option Payload) : Nat → Option Payload
  | 0 => none
  | n + 1 => (f n).or (longestBelow f n)

section
variable {f : Nat → Option Payload}

theorem longestBelow_eq_none_iff {n : Nat} : longestBelow f n = none ↔ ∀ i, i < n → f i = none := by
  induction n with
  | zero => simp [longestBelow]
  | succ n ih =>
    simp only [longestBelow, Option.or_eq_none_iff, ih, Nat.lt_succ_iff_lt_or_eq, or_imp, forall_and,
      forall_eq, and_comm]

theorem longestBelow_eq_some_iff {n : Nat} {p : Payload} :
    longestBelow f n = some p ↔
      ∃ i, i < n ∧ f i = some p ∧ ∀ j, i < j → j < n → f j = none := by
  induction n with
  | zero => simp [longestBelow]
  | succ n ih =>
    rw [longestBelow, Option.or_eq_some_iff, ih]
    constructor
    · rintro (hn | ⟨hn, i, hi, hfi, hlonger⟩)
      · exact ⟨n, by omega, hn, fun j _ _ => by omega⟩
      · refine ⟨i, by omega, hfi, fun j hij hj => ?_⟩
        obtain hj | rfl := Nat.lt_succ_iff_lt_or_eq.1 hj
        · exact hlonger j hij hj
        · exact hn
    · rintro ⟨i, hi, hfi, hlonger⟩
      obtain hi | rfl := Nat.lt_succ_iff_lt_or_eq.1 hi
      · exact .inr ⟨hlonger n hi (by omega), i, hi, hfi, fun j hij hj => hlonger j hij (by omega)⟩
      · exact .inl hfi

/-- Lengths without a route do not matter. -/
theorem longestBelow_eq_of_none {m n : Nat} (hmn : m ≤ n) (h : ∀ i, m ≤ i → i < n → f i = none) :
    longestBelow f n = longestBelow f m := by
  induction n, hmn using Nat.le_induction with
  | base => rfl
  | succ n hmn ih =>
    rw [longestBelow, h n hmn (by omega), Option.none_or]
    exact ih fun i hi hlt => h i hi (by omega)

end

/-! ### The LOOKUP walk (R115, R116) -/

/-- R20 along the path of a key: no node on it holds a route in a slot 7..14. -/
def NoK3OnPath (root : Node) (a : Key) : Prop :=
  ∀ (d : Nat) (s : Fin 15), 7 ≤ s.val → routeAt root a d s = none

theorem noK3OnPath_of_legal {bits : Nat} {root : Node} (h : root.legal bits 0 = true) (a : Key) :
    NoK3OnPath root a := by
  intro d s hs
  rw [routeAt_eq_bind]
  cases hfind : root.find a d with
  | none => rfl
  | some n => exact Node.route_k3_of_legal (legal_findFrom h hfind) hs

/-- No command writes a slot 7..14 (R20). -/
theorem RouteUpdate.noK3OnPath {root root' : Node} {a b : Key} {c : Nat} {q : Option Payload}
    (h : RouteUpdate root root' a c q) (hb : NoK3OnPath root b) : NoK3OnPath root' b := by
  intro d s hs
  rw [h.elsewhere, hb d s hs]
  rintro ⟨-, rfl, -⟩
  have hle := boundary_slot_le a c
  omega

/-- The four slots that LOOKUP probes: one of the k = 3 row, and one of each row below it. -/
theorem probed_rows : ∀ g : Fin 8, 7 ≤ (slotIndex 3 g.val).val ∧
    isK3Slot (slotIndex 2 (g.val >>> 1)) = false ∧ isK3Slot (slotIndex 1 (g.val >>> 2)) = false ∧
    isK3Slot (slotIndex 0 0) = false := by
  decide

/-- The probes of a node that meets R20: the most specific route of the rows k = 2, 1, 0, or the best match
so far. -/
theorem probeNode_eq {n : Node} (hk3 : ∀ s : Fin 15, 7 ≤ s.val → n.route s = none) (g : Fin 8)
    (best : Option Payload) :
    probeNode n g best = .ok ((n.route (slotIndex 2 (g.val >>> 1))).or
      ((n.route (slotIndex 1 (g.val >>> 2))).or ((n.route (slotIndex 0 0)).or best))) := by
  obtain ⟨h3, h2, h1, h0⟩ := probed_rows g
  have hroute3 := hk3 _ h3
  cases hroute2 : n.route (slotIndex 2 (g.val >>> 1)) with
  | some p => simp [probeNode, probeOrder, hroute3, hroute2, h2]
  | none =>
    cases hroute1 : n.route (slotIndex 1 (g.val >>> 2)) with
    | some p => simp [probeNode, probeOrder, hroute3, hroute2, hroute1, h1]
    | none =>
      cases hroute0 : n.route (slotIndex 0 0) with
      | some p => simp [probeNode, probeOrder, hroute3, hroute2, hroute1, hroute0, h0]
      | none => simp [probeNode, probeOrder, hroute3, hroute2, hroute1, hroute0]

/-- The three lengths whose routes lie at depth d are its probes of the rows k = 0, 1, 2 (R102). -/
theorem storedAt_of_find {root n : Node} {a : Key} {d : Nat} (h : root.find a d = some n) {k : Nat}
    (hk : k < 3) :
    storedAt root a (3 * d + k) = n.route (slotIndex k ((group a d).val >>> (3 - k))) := by
  have hdiv : (3 * d + k) / 3 = d := by omega
  have hmod : (3 * d + k) % 3 = k := by omega
  rw [storedAt_eq_routeAt, boundary_slot, boundary_v, hdiv, hmod, routeAt_eq_bind, h,
    Nat.shiftRight_eq_div_pow]
  rfl

theorem storedAt_of_find_none {root : Node} {a : Key} {d c : Nat} (h : root.find a d = none)
    (hc : 3 * d ≤ c) : storedAt root a c = none := by
  rw [storedAt_eq_routeAt, routeAt_eq_bind, find_eq_none_of_le h (by omega)]
  rfl

/-- One node of the walk takes the longest match over the lengths below its depth to the one over the
lengths it owns too. -/
theorem probeNode_longestBelow {root n : Node} {a : Key} (hk3 : NoK3OnPath root a) {d : Nat}
    (h : root.find a d = some n) :
    probeNode n (group a d) (longestBelow (storedAt root a) (3 * d)) =
      .ok (longestBelow (storedAt root a) (3 * (d + 1))) := by
  have hnode : ∀ s : Fin 15, 7 ≤ s.val → n.route s = none := fun s hs => by
    have hroute := hk3 d s hs
    rwa [routeAt_eq_bind, h] at hroute
  have hrow0 : (group a d).val >>> 3 = 0 := Nat.shiftRight_eq_zero _ _ (group a d).isLt
  have h0 := storedAt_of_find h (k := 0) (by omega)
  have h1 := storedAt_of_find h (k := 1) (by omega)
  have h2 := storedAt_of_find h (k := 2) (by omega)
  rw [Nat.sub_zero, hrow0] at h0
  rw [probeNode_eq hnode, ← h0, ← h1, ← h2]
  rfl

/-- The walk from a node of the path, with the best match above it, ends in the best match of all. -/
theorem lookupFrom_eq_longestBelow {root : Node} {a : Key} (hk3 : NoK3OnPath root a) {rem d : Nat}
    (hd : d + rem = 10) {n : Node} (h : root.find a d = some n) :
    lookupFrom a rem d (longestBelow (storedAt root a) (3 * d)) n =
      .ok (longestBelow (storedAt root a) 33) := by
  induction rem generalizing d n with
  | zero =>
    obtain rfl : d = 10 := hd
    rw [lookupFrom_zero, probeNode_longestBelow hk3 h]
  | succ rem ih =>
    have hnext := find_succ root a d
    rw [h, Option.bind_some] at hnext
    rw [lookupFrom_succ _ _ _ _ _ _ (probeNode_longestBelow hk3 h)]
    split
    · next hp =>
      rw [if_pos hp] at hnext
      exact ih (by omega) hnext
    · next hp =>
      rw [if_neg hp] at hnext
      rw [longestBelow_eq_of_none (m := 3 * (d + 1)) (n := 33) (by omega) fun i hi _ =>
        storedAt_of_find_none hnext hi]

/-- LOOKUP's walk finds the longest of the key's stored prefixes (R116). -/
theorem lookup_eq_longestBelow {root : Node} {a : Key} (hk3 : NoK3OnPath root a) :
    root.lookup a = .ok (longestBelow (storedAt root a) 33) :=
  lookupFrom_eq_longestBelow (rem := 10) (d := 0) hk3 rfl rfl

theorem exec_lookup {s : State} {L : Latch} {t : Nat} {T : Table} (c : Nat) (hlatch : s.latch = some L)
    (ht : s.tables[t]? = some T) (hlive : T.live = true) (hk3 : NoK3OnPath T.root L.addr) :
    exec (.lookup c t) s =
      .next (s.okCompletion (longestBelow (storedAt T.root L.addr) 33).isSome
        ((longestBelow (storedAt T.root L.addr) 33).getD 0)) := by
  have hrun : exec (.lookup c t) s = execLookup c t s := rfl
  rw [hrun, execLookup, withLatch_some hlatch, withLiveTable_live ht hlive, lookup_eq_longestBelow hk3]
  cases longestBelow (storedAt T.root L.addr) 33 <;> rfl

/-- Settles O37: the walk's best match is the route of the longest of the key's stored prefixes. -/
theorem lookupIsLongestPrefixMatch : Obligations.LookupIsLongestPrefixMatch := by
  intro s L c t T hlatch ht hlive hlegal
  have hlt : ∀ i, i < 33 ↔ i ≤ 32 := fun i => Nat.lt_succ_iff
  refine ⟨longestBelow (storedAt T.root L.addr) 33,
    exec_lookup c hlatch ht hlive (noK3OnPath_of_legal hlegal L.addr), fun p => ?_, ?_⟩
  · simp only [longestBelow_eq_some_iff, hlt]
  · simp only [longestBelow_eq_none_iff, hlt]

/-! ### ADD and DELETE that complete without error -/

theorem StoppedByTable.err_ne_ok {t : Nat} {s s' : State} (h : StoppedByTable t s s') : s'.err ≠ .ok := by
  obtain ⟨-, rfl⟩ | ⟨-, -, -, rfl⟩ := h
  · nofun
  · nofun

section
variable {s s' : State} {L : Latch} {c t : Nat} {T : Table} (hlatch : s.latch = some L)
  (ht : s.tables[t]? = some T) (hok : s'.err = .ok)
include hlatch ht hok

/-- An ADD without error passed every check of R182 and inserted its route. -/
theorem exec_add_ok (h : exec (.add c t) s = .next s') :
    T.live = true ∧ c ≤ 32 ∧
      s' = ((s.setTable t (T.mutated (T.root.insert L.addr c L.payload).node)).allocate
        (T.root.insert L.addr c L.payload).nc (T.root.insert L.addr c L.payload).ns).complete
          (Result.flag (T.root.insert L.addr c L.payload).replaced) := by
  obtain ⟨L₁, hL, hstop | ⟨T₁, hT, hlive, ⟨-, rfl⟩ | ⟨-, -, rfl⟩ | ⟨hc, -, rfl⟩⟩⟩ := execAdd_next h
  · exact absurd hok hstop.err_ne_ok
  · cases hok
  · cases hok
  · cases hlatch.symm.trans hL
    cases ht.symm.trans hT
    exact ⟨hlive, hc, rfl⟩

/-- A DELETE without error passed every check of R182 and left what `remove` answers. -/
theorem exec_delete_ok (h : exec (.delete c t) s = .next s') :
    T.live = true ∧ c ≤ 32 ∧
      s' = (s.setTable t (T.mutated ((T.root.remove L.addr c).getD T.root))).complete
        (Result.flag (T.root.remove L.addr c).isSome) := by
  obtain ⟨L₁, hL, hstop | ⟨T₁, hT, hlive, ⟨-, rfl⟩ | ⟨hc, rfl⟩⟩⟩ := execDelete_next h
  · exact absurd hok hstop.err_ne_ok
  · cases hok
  · cases hlatch.symm.trans hL
    cases ht.symm.trans hT
    exact ⟨hlive, hc, rfl⟩

/-- The table that an ADD without error leaves. -/
theorem exec_add_table (h : exec (.add c t) s = .next s') :
    T.live = true ∧ c ≤ 32 ∧
      s'.tables[t]? = some (T.mutated (T.root.insert L.addr c L.payload).node) := by
  obtain ⟨hlive, hc, rfl⟩ := exec_add_ok hlatch ht hok h
  exact ⟨hlive, hc, by simp [List.getElem?_set_self', ht]⟩

/-- The table that a DELETE with RES = 1 leaves. -/
theorem exec_delete_table (h : exec (.delete c t) s = .next s') (hres : s'.res = true) :
    T.live = true ∧ c ≤ 32 ∧ ∃ root', T.root.remove L.addr c = some root' ∧
      s'.tables[t]? = some (T.mutated root') := by
  obtain ⟨hlive, hc, rfl⟩ := exec_delete_ok hlatch ht hok h
  obtain ⟨root', hroot⟩ := Option.isSome_iff_exists.1 hres
  exact ⟨hlive, hc, root', hroot, by simp [List.getElem?_set_self', ht, hroot]⟩

end

/-- Settles O36: the descent writes the boundary's slot on a path it completes, and allocates what the
counting walk counted. -/
theorem addLaws : Obligations.AddLaws := by
  intro s s' L c t T hlatch ht hlegal hexec hok
  obtain ⟨-, hc, htable⟩ := exec_add_table hlatch ht hok hexec
  obtain ⟨-, -, rfl⟩ := exec_add_ok hlatch ht hok hexec
  have hupdate := routeUpdate_insert T.root L.addr L.payload hc
  rw [Node.need_eq_insert hlegal L.addr c L.payload]
  refine ⟨_, htable, hupdate.here, fun d hd => find_insertFrom_isSome _ _ _ hd 0 T.root,
    fun b d σ _ => hupdate.elsewhere b d σ, fun u hu => ?_, rfl, rfl⟩
  exact List.getElem?_set_ne hu.symm

/-- What a LOOKUP under the same table finds after one route was written (R125, R127). -/
theorem exec_lookup_mutated {s : State} {L : Latch} {t : Nat} {T : Table} {root' : Node} {a : Key}
    {bits k : Nat} {q : Option Payload} (c : Nat) (hlatch : s.latch = some L)
    (ht : s.tables[t]? = some (T.mutated root')) (hlive : T.live = true)
    (hlegal : T.root.legal bits 0 = true) (h : RouteUpdate T.root root' a k q) :
    exec (.lookup c t) s =
      .next (s.okCompletion (longestBelow (storedAt root' L.addr) 33).isSome
        ((longestBelow (storedAt root' L.addr) 33).getD 0)) :=
  exec_lookup (T := T.mutated root') c hlatch ht hlive
    (h.noK3OnPath (noK3OnPath_of_legal hlegal L.addr))

/-- Settles O51: the new route is stored under the key, and no route under a longer length is. -/
theorem addThenLookup : Obligations.AddThenLookup := by
  intro s s' L L' c c' t T hlatch ht hlegal _ hexec hok hmask hlonger
  obtain ⟨hlive, hc, htable⟩ := exec_add_table hlatch ht hok hexec
  have hupdate := routeUpdate_insert T.root L.addr L.payload hc
  have hbest : longestBelow (storedAt (T.root.insert L.addr c L.payload).node L'.addr) 33 =
      some L.payload := by
    refine longestBelow_eq_some_iff.2 ⟨c, by omega, ?_, fun d hd hd32 => ?_⟩
    · rw [hupdate.storedAt_eq hc, if_pos ⟨rfl, hmask⟩]
    · rw [hupdate.storedAt_eq hc, if_neg (by omega), hlonger d hd (by omega)]
  have hlookup :=
    exec_lookup_mutated (s := { s' with latch := some L' }) c' rfl htable hlive hlegal hupdate
  rw [hbest] at hlookup
  exact ⟨_, hlookup, rfl, rfl, rfl⟩

/-- Settles O52: the only route stored under the key is the removed one. -/
theorem deleteThenLookup : Obligations.DeleteThenLookup := by
  intro s s' L L' c c' t T hlatch ht hlegal hexec hok hres hmask hother
  obtain ⟨hlive, hc, root', hremove, htable⟩ := exec_delete_table hlatch ht hok hexec hres
  have hupdate := routeUpdate_remove hc hremove
  have hbest : longestBelow (storedAt root' L'.addr) 33 = none := by
    refine longestBelow_eq_none_iff.2 fun d hd => ?_
    rw [hupdate.storedAt_eq hc]
    split
    · rfl
    · next hne => exact hother d (fun hdc => hne ⟨hdc, hmask⟩) (by omega)
  have hlookup :=
    exec_lookup_mutated (s := { s' with latch := some L' }) c' rfl htable hlive hlegal hupdate
  rw [hbest] at hlookup
  exact ⟨_, hlookup, rfl, rfl, rfl⟩

end Sys2Proof.Machine
end

section
/-! The reclamation sweep (R140) and freeAll (R150): a node is read through its slot block, the ownership
of its child block and its children (`kidOrEmpty`), what the sweep does to each of the three is said once,
and the laws of R142 follow by induction over the children; those of R176 need no more than the counts. -/

namespace Sys2Proof.Machine

/-! ### A node through its children -/

theorem Node.kidOrEmpty_bare (b : Option SlotBlock) (g : Fin 8) : (Node.bare b).kidOrEmpty g = .empty :=
  kidOrEmpty_of_absent (by simp [present, cmask])

/-- Induction over the children of a node, absent ones read as the empty node. -/
theorem Node.kids_induction {P : Node → Prop} (empty : P .empty)
    (step : ∀ n : Node, (∀ g, P (n.kidOrEmpty g)) → P n) (n : Node) : P n := by
  induction n with
  | bare b => exact step _ fun g => by rw [kidOrEmpty_bare]; exact empty
  | full b m k0 k1 k2 k3 k4 k5 k6 k7 h0 h1 h2 h3 h4 h5 h6 h7 =>
    refine step _ fun g => ?_
    unfold kidOrEmpty
    split
    · fin_cases g
      exacts [h0, h1, h2, h3, h4, h5, h6, h7]
    · exact empty

theorem Node.cmask_eq_zero_iff (n : Node) : n.cmask = 0 ↔ ∀ g, n.present g = false := by
  constructor
  · intro h g
    simp [present, h]
  · intro h
    refine BitVec.eq_of_getLsbD_eq fun j hj => ?_
    exact (h ⟨j, hj⟩).trans BitVec.getLsbD_zero.symm

/-- A count over the present children of R140 and R150, as a sum over all groups. -/
theorem sum_kidOrEmpty_full (f : Node → Nat) (hf : f .empty = 0) (b : Option SlotBlock) (m : BitVec 8)
    (k0 k1 k2 k3 k4 k5 k6 k7 : Node) :
    ∑ g, f ((Node.full b m k0 k1 k2 k3 k4 k5 k6 k7).kidOrEmpty g) =
      ifPresent m 0 (f k0) + ifPresent m 1 (f k1) + ifPresent m 2 (f k2) + ifPresent m 3 (f k3) +
        ifPresent m 4 (f k4) + ifPresent m 5 (f k5) + ifPresent m 6 (f k6) + ifPresent m 7 (f k7) := by
  simp only [Node.kidOrEmpty, apply_ite f, hf, Fin.sum_univ_eight]
  rfl

theorem sum_kidOrEmpty_bare (f : Node → Nat) (hf : f .empty = 0) (b : Option SlotBlock) :
    ∑ g, f ((Node.bare b).kidOrEmpty g) = 0 := by
  simp [Node.kidOrEmpty_bare, hf]

theorem Node.ownedC_eq (n : Node) :
    n.ownedC = n.calloc.toNat + ∑ g, (n.kidOrEmpty g).ownedC := by
  cases n with
  | bare b => rw [sum_kidOrEmpty_bare _ rfl]; rfl
  | full => rw [sum_kidOrEmpty_full _ rfl]; rfl

theorem Node.ownedS_eq (n : Node) :
    n.ownedS = slotBlocks n.sblk + ∑ g, (n.kidOrEmpty g).ownedS := by
  cases n with
  | bare b => rw [sum_kidOrEmpty_bare _ rfl]; rfl
  | full => rw [sum_kidOrEmpty_full _ rfl]; rfl

theorem Node.hasRoute_kidOrEmpty (n : Node) (g : Fin 8) :
    (n.kidOrEmpty g).hasRoute = (n.present g && (n.kid g).hasRoute) := by
  cases hp : n.present g with
  | true => rw [kidOrEmpty_of_present hp, Bool.true_and]
  | false => rw [kidOrEmpty_of_absent hp]; rfl

theorem Node.hasRoute_iff (n : Node) :
    n.hasRoute = true ↔ blockOccupied n.sblk = true ∨ ∃ g, (n.kidOrEmpty g).hasRoute = true := by
  cases n with
  | bare b => simp [hasRoute, sblk, kidOrEmpty_bare, empty, blockOccupied]
  | full =>
    simp only [hasRoute_kidOrEmpty, Fin.exists_fin_succ]
    simp [hasRoute, present, cmask, sblk, kid, or_assoc]

theorem Node.reclaimed_of_calloc {n : Node} (hn : n.calloc = true) (hmask : n.cmask ≠ 0)
    (hkid : ∀ g, n.present g = true → (n.kid g).hasRoute = true ∧ (n.kid g).reclaimed = true) :
    n.reclaimed = true := by
  have hrecord : ∀ g : Fin 8,
      recordReclaimed n.cmask g.val (n.kid g) (n.kid g).reclaimed = true := by
    intro g
    change (!n.present g || _) = true
    cases hp : n.present g with
    | true => simp [hkid g hp]
    | false => rfl
  cases n with
  | bare b => cases hn
  | full b m =>
    have hm : decide (m ≠ 0) = true := decide_eq_true hmask
    simp only [reclaimed, hm, Bool.true_and, Bool.and_eq_true, and_assoc]
    exact ⟨hrecord 0, hrecord 1, hrecord 2, hrecord 3, hrecord 4, hrecord 5, hrecord 6, hrecord 7⟩

/-! ### What the sweep does to one node (R140) -/

theorem blockOccupied_some (x : SlotBlock) : blockOccupied (some x) = true ↔ x.smask ≠ 0 :=
  decide_eq_true_iff

theorem sweepBare_cases (b : Option SlotBlock) :
    (blockOccupied b = false ∧
        sweepBare b = { node := .bare none, dead := true, freedC := 0, freedS := slotBlocks b }) ∨
      (blockOccupied b = true ∧
        sweepBare b = { node := .bare b, dead := false, freedC := 0, freedS := 0 }) := by
  cases b with
  | none => exact .inl ⟨rfl, rfl⟩
  | some x =>
    by_cases hx : x.smask = 0
    · exact .inl ⟨by simp [blockOccupied, hx], by simp [sweepBare, slotBlocks, hx]⟩
    · exact .inr ⟨(blockOccupied_some x).2 hx, if_neg hx⟩

section
variable (b : Option SlotBlock) (m : BitVec 8) (k0 k1 k2 k3 k4 k5 k6 k7 : Node) (fc fs : Nat)

theorem finishSweep_cases :
    (m = 0 ∧ blockOccupied b = false ∧ finishSweep b m k0 k1 k2 k3 k4 k5 k6 k7 fc fs =
        { node := .bare none, dead := true, freedC := fc + 1, freedS := fs + slotBlocks b }) ∨
      (m = 0 ∧ blockOccupied b = true ∧ finishSweep b m k0 k1 k2 k3 k4 k5 k6 k7 fc fs =
        { node := .bare b, dead := false, freedC := fc + 1, freedS := fs }) ∨
      (m ≠ 0 ∧ finishSweep b m k0 k1 k2 k3 k4 k5 k6 k7 fc fs =
        { node := .full b m k0 k1 k2 k3 k4 k5 k6 k7, dead := false, freedC := fc, freedS := fs }) := by
  by_cases hm : m = 0
  · cases b with
    | none => exact .inl ⟨hm, rfl, by simp [finishSweep, hm, slotBlocks]⟩
    | some x =>
      by_cases hx : x.smask = 0
      · exact .inl ⟨hm, by simp [blockOccupied, hx], by simp [finishSweep, slotBlocks, hm, hx]⟩
      · exact .inr (.inl ⟨hm, (blockOccupied_some x).2 hx, (if_pos hm).trans (if_neg hx)⟩)
  · exact .inr (.inr ⟨hm, if_neg hm⟩)

theorem cmask_finishSweep : (finishSweep b m k0 k1 k2 k3 k4 k5 k6 k7 fc fs).node.cmask = m := by
  obtain ⟨rfl, -, h⟩ | ⟨rfl, -, h⟩ | ⟨-, h⟩ := finishSweep_cases b m k0 k1 k2 k3 k4 k5 k6 k7 fc fs
  all_goals rw [h]; rfl

end

/-- The child blocks that the pass over the children of a node frees. -/
def Node.kidsFreedC (n : Node) : Nat := ∑ g, (n.kidOrEmpty g).sweep.freedC

/-- The slot blocks that the pass over the children of a node frees. -/
def Node.kidsFreedS (n : Node) : Nat := ∑ g, (n.kidOrEmpty g).sweep.freedS

/-- The sweep of a node ends in one of three ways: it is dead and loses both blocks, it loses its child
block only, or it keeps both blocks. -/
theorem Node.sweep_cases (n : Node) :
    (blockOccupied n.sblk = false ∧
        n.sweep = ⟨.bare none, true, n.kidsFreedC + n.calloc.toNat, n.kidsFreedS + slotBlocks n.sblk⟩) ∨
      (blockOccupied n.sblk = true ∧
        n.sweep = ⟨.bare n.sblk, false, n.kidsFreedC + n.calloc.toNat, n.kidsFreedS⟩) ∨
      ∃ n' : Node, n.sweep = ⟨n', false, n.kidsFreedC, n.kidsFreedS⟩ ∧
        n.calloc = true ∧ n'.calloc = true ∧ n'.cmask ≠ 0 ∧ n'.sblk = n.sblk := by
  cases n with
  | bare b =>
    have hc : (bare b).kidsFreedC = 0 := sum_kidOrEmpty_bare (fun k => k.sweep.freedC) rfl b
    have hs : (bare b).kidsFreedS = 0 := sum_kidOrEmpty_bare (fun k => k.sweep.freedS) rfl b
    rw [hc, hs, Nat.zero_add, Nat.zero_add]
    obtain h | h := sweepBare_cases b
    · exact .inl h
    · exact .inr (.inl h)
  | full b m k0 k1 k2 k3 k4 k5 k6 k7 =>
    have hc := sum_kidOrEmpty_full (fun k => k.sweep.freedC) rfl b m k0 k1 k2 k3 k4 k5 k6 k7
    have hs := sum_kidOrEmpty_full (fun k => k.sweep.freedS) rfl b m k0 k1 k2 k3 k4 k5 k6 k7
    rw [kidsFreedC, kidsFreedS, hc, hs, Node.sweep]
    obtain ⟨-, h⟩ | ⟨-, h⟩ | ⟨hm, h⟩ := finishSweep_cases b _ _ _ _ _ _ _ _ _ _ _
    · exact .inl h
    · exact .inr (.inl h)
    · exact .inr (.inr ⟨_, h, rfl, rfl, hm, rfl⟩)

/-- The pass clears the bit of a present dead child and no other. -/
theorem getElem_pruneBit (m : BitVec 8) {g j : Nat} (hj : j < 8) (r : Swept) :
    (pruneBit m g r)[j] = (m.getLsbD g && r.dead && decide (j = g)) := by
  unfold pruneBit
  split
  · next h => simp [h, ← BitVec.twoPow_eq, eq_comm]
  · next h => simp [Bool.eq_false_iff.2 h]

theorem Node.dead_kidOrEmpty (n : Node) (g : Fin 8) :
    (n.kidOrEmpty g).sweep.dead = (!n.present g || (n.kid g).sweep.dead) := by
  cases hp : n.present g with
  | true => rw [kidOrEmpty_of_present hp]; rfl
  | false => rw [kidOrEmpty_of_absent hp]; rfl

/-- The children after the pass are the ones that were not dead. -/
theorem Node.present_sweep (n : Node) (g : Fin 8) :
    n.sweep.node.present g = !(n.kidOrEmpty g).sweep.dead := by
  cases n with
  | bare b =>
    rw [kidOrEmpty_bare, Node.sweep]
    obtain ⟨-, h⟩ | ⟨-, h⟩ := sweepBare_cases b <;> rw [h] <;> exact BitVec.getLsbD_zero
  | full b m k0 k1 k2 k3 k4 k5 k6 k7 =>
    have hbit : ∀ p q : Bool, (p && (!p || q)) = (p && q) := by decide
    rw [dead_kidOrEmpty, present, Node.sweep, cmask_finishSweep]
    fin_cases g <;> simp [getElem_pruneBit, present, cmask, kid, hbit]

/-- The pass over a node is the pass over its children. -/
theorem Node.kidOrEmpty_sweep (n : Node) (g : Fin 8) :
    n.sweep.node.kidOrEmpty g = (n.kidOrEmpty g).sweep.node := by
  cases hp : n.sweep.node.present g with
  | true =>
    obtain ⟨hpresent, hkid⟩ := n.kid_sweep g hp
    rw [kidOrEmpty_of_present hp, kidOrEmpty_of_present hpresent, hkid]
  | false =>
    rw [present_sweep, Bool.not_eq_false'] at hp
    rw [kidOrEmpty_of_absent (by rw [present_sweep, hp]; rfl), (sweep_dead _).1 hp]
    rfl

/-- R140's `dead`: no occupied slot, and no child that is not dead. -/
theorem Node.sweep_dead_eq_false_iff (n : Node) :
    n.sweep.dead = false ↔
      blockOccupied n.sblk = true ∨ ∃ g, (n.kidOrEmpty g).sweep.dead = false := by
  have hkids : (∃ g, (n.kidOrEmpty g).sweep.dead = false) ↔ n.sweep.node.cmask ≠ 0 := by
    rw [Ne, cmask_eq_zero_iff]
    simp [present_sweep]
  rw [hkids]
  obtain ⟨hb, h⟩ | ⟨hb, h⟩ | ⟨n', h, -, -, hmask, -⟩ := n.sweep_cases
  · simp [h, hb, cmask]
  · simp [h, hb]
  · rw [h]
    exact iff_of_true rfl (.inr hmask)

/-- Where the sweep takes a slot block from a node, none of its slots is occupied. -/
theorem Node.sblk_sweep_cases (n : Node) :
    n.sweep.node.sblk = n.sblk ∨ n.sweep.node.sblk = none ∧ blockOccupied n.sblk = false := by
  obtain ⟨hb, h⟩ | ⟨-, h⟩ | ⟨n', h, -, -, -, hblk⟩ := n.sweep_cases
  · exact .inr ⟨by rw [h]; rfl, hb⟩
  · exact .inl (by rw [h]; rfl)
  · exact .inl (by rw [h]; exact hblk)

theorem Node.blockOccupied_sweep (n : Node) :
    blockOccupied n.sweep.node.sblk = blockOccupied n.sblk := by
  obtain h | ⟨h, hb⟩ := n.sblk_sweep_cases
  · rw [h]
  · rw [h, hb]; rfl

theorem Node.route_eq_none_of_not_occupied {n : Node} (h : blockOccupied n.sblk = false) (s : Fin 15) :
    n.route s = none := by
  cases hb : n.sblk with
  | none => simp [route_eq, hb]
  | some x =>
    have hx : x.smask = 0 := by simpa [hb, blockOccupied] using h
    simp [route_eq, hb, SlotBlock.occupied, hx]

theorem Node.route_sweep (n : Node) (s : Fin 15) : n.sweep.node.route s = n.route s := by
  obtain h | ⟨h, hb⟩ := n.sblk_sweep_cases
  · exact route_congr h s
  · rw [route_eq_none_of_not_occupied hb, route_eq_none_of_not_occupied (by rw [h]; rfl)]

/-! ### The laws of the sweep (R142) -/

/-- A node is dead iff its subtree stores no route. -/
theorem Node.sweep_dead_eq (n : Node) : n.sweep.dead = !n.hasRoute := by
  induction n using kids_induction with
  | empty => rfl
  | step n ih =>
    have hdead : n.sweep.dead = false ↔ n.hasRoute = true := by
      rw [sweep_dead_eq_false_iff, hasRoute_iff]
      simp only [ih, Bool.not_eq_false']
    cases hroute : n.hasRoute with
    | true => exact hdead.2 hroute
    | false => simpa [hroute] using hdead

theorem Node.hasRoute_sweep (n : Node) : n.sweep.node.hasRoute = n.hasRoute := by
  induction n using kids_induction with
  | empty => rfl
  | step n ih =>
    rw [Bool.eq_iff_iff, hasRoute_iff, n.hasRoute_iff]
    simp only [blockOccupied_sweep, kidOrEmpty_sweep, ih]

/-- Laws (i) to (iii). -/
theorem Node.reclaimed_sweep (n : Node) : n.sweep.node.reclaimed = true := by
  induction n using kids_induction with
  | empty => rfl
  | step n ih =>
    obtain ⟨-, h⟩ | ⟨hb, h⟩ | ⟨n', h, -, hcalloc, hmask, -⟩ := n.sweep_cases
    · rw [h]; rfl
    · rw [h]; simp [reclaimed, hb]
    · have hnode : n.sweep.node = n' := by rw [h]
      rw [← hnode] at hcalloc hmask
      refine reclaimed_of_calloc hcalloc hmask fun g hp => ?_
      rw [← kidOrEmpty_of_present hp, kidOrEmpty_sweep]
      rw [present_sweep, sweep_dead_eq, Bool.not_not, ← hasRoute_sweep] at hp
      exact ⟨hp, ih g⟩

/-- Blocks of one kind are conserved over a trie where they are over the pass at each node: `freed` counts
what the sweep frees, `own` what a subtree owns, and `here` the part of its top node. -/
theorem Node.sweep_conserves {freed own here : Node → Nat} (hempty : freed .empty = 0)
    (hown : ∀ n, own n = here n + ∑ g, own (n.kidOrEmpty g))
    (hnode : ∀ n, freed n + here n.sweep.node = ∑ g, freed (n.kidOrEmpty g) + here n) (n : Node) :
    freed n + own n.sweep.node = own n := by
  induction n using kids_induction with
  | empty => rw [hempty, Nat.zero_add]; rfl
  | step n ih =>
    have hkids : ∑ g, freed (n.kidOrEmpty g) + ∑ g, own (n.kidOrEmpty g).sweep.node =
        ∑ g, own (n.kidOrEmpty g) := by
      rw [← Finset.sum_add_distrib]
      exact Finset.sum_congr rfl fun g _ => ih g
    have hhere := hnode n
    rw [hown, hown n]
    simp only [kidOrEmpty_sweep]
    omega

/-- The child blocks that the pass frees are the ones the trie no longer owns. -/
theorem Node.freedC_sweep (n : Node) : n.sweep.freedC + n.sweep.node.ownedC = n.ownedC := by
  refine sweep_conserves (freed := fun n => n.sweep.freedC) rfl ownedC_eq (fun n => ?_) n
  obtain ⟨-, h⟩ | ⟨-, h⟩ | ⟨n', h, hn, hn', -, -⟩ := n.sweep_cases
  · rw [h]; rfl
  · rw [h]; rfl
  · rw [h, hn, hn']; rfl

/-- The slot blocks that the pass frees are the ones the trie no longer owns. -/
theorem Node.freedS_sweep (n : Node) : n.sweep.freedS + n.sweep.node.ownedS = n.ownedS := by
  refine sweep_conserves (freed := fun n => n.sweep.freedS) rfl ownedS_eq (fun n => ?_) n
  obtain ⟨-, h⟩ | ⟨-, h⟩ | ⟨n', h, -, -, -, hblk⟩ := n.sweep_cases
  · rw [h]; rfl
  · rw [h]; rfl
  · rw [h, hblk]; rfl

/-- Law (iv): every walk reads what it read before. -/
theorem routeFrom_sweep (a : Key) (rem d : Nat) (n : Node) (s : Fin 15) :
    routeFrom a rem d n.sweep.node s = routeFrom a rem d n s := by
  induction rem generalizing d n with
  | zero => exact n.route_sweep s
  | succ rem ih => rw [routeFrom_succ, routeFrom_succ, Node.kidOrEmpty_sweep, ih]

theorem storedAt_sweep (root : Node) (a : Key) (c : Nat) :
    storedAt root.sweep.node a c = storedAt root a c := by
  simp only [storedAt_eq_routeAt, routeAt_eq_routeFrom, routeFrom_sweep]

/-- A node that the pass leaves is a swept node of the trie before. -/
theorem findFrom_sweep {a : Key} {rem d : Nat} {n m' : Node}
    (h : findFrom a rem d n.sweep.node = some m') :
    ∃ m, findFrom a rem d n = some m ∧ m' = m.sweep.node := by
  induction rem generalizing d n with
  | zero => exact ⟨n, rfl, (Option.some.inj h).symm⟩
  | succ rem ih =>
    rw [findFrom_succ, Option.ite_none_right_eq_some] at h
    obtain ⟨hp, h⟩ := h
    obtain ⟨hpresent, hkid⟩ := n.kid_sweep _ hp
    rw [hkid] at h
    rw [findFrom_succ, if_pos hpresent]
    exact ih h

/-! ### Dead tries (R140, R142) -/

/-- A slot mask that is not 0 has a bit of one of the 15 slots, bit 15 being 0 (R17). -/
theorem SlotBlock.exists_occupied {x : SlotBlock} (h15 : x.smask.getLsbD 15 = false)
    (h : x.smask ≠ 0) : ∃ s, x.occupied s = true := by
  by_contra hnone
  simp only [not_exists, Bool.not_eq_true] at hnone
  refine h (BitVec.eq_of_getLsbD_eq fun j hj => ?_)
  rw [BitVec.ofNat_eq_ofNat, BitVec.getLsbD_zero]
  obtain hj | rfl : j < 15 ∨ j = 15 := by omega
  · exact hnone ⟨j, hj⟩
  · exact h15

/-- An occupied block of a legal node holds a route in one of the slots 0..6 (R20). -/
theorem Node.exists_route_of_legal {bits d : Nat} {n : Node} (hlegal : n.legal bits d = true)
    (h : blockOccupied n.sblk = true) : ∃ s : Fin 15, s.val ≤ 6 ∧ n.route s ≠ none := by
  cases hb : n.sblk with
  | none => rw [hb] at h; cases h
  | some x =>
    have hblock := blockLegal_of_legal hlegal
    rw [hb, blockLegal, Bool.and_eq_true, decide_eq_true_eq] at hblock
    have h15 : x.smask.getLsbD 15 = false := by
      simpa using congrArg (BitVec.getLsbD · 8) hblock.1
    rw [hb, blockOccupied_some] at h
    obtain ⟨s, hs⟩ := SlotBlock.exists_occupied h15 h
    have hroute : n.route s ≠ none := by simp [route_eq, hb, hs]
    refine ⟨s, ?_, hroute⟩
    by_contra hk3
    exact hroute (route_k3_of_legal hlegal (by omega))

/-- The path of the key that R104 builds from a path number. -/
theorem leadingBits_prefixAddr_path {d p : Nat} (hd : d ≤ 10) (hp : p < 8 ^ d) {s : Fin 15}
    (hs : s.val ≤ 6) : leadingBits (prefixAddr d p s) (3 * d) = p := by
  have hpath := prefixAddr_path hd hp hs
  rwa [Nat.shiftRight_eq_div_pow] at hpath

theorem leadingBits_lt_eight_pow (a : Key) {d : Nat} (hd : d ≤ 10) : leadingBits a (3 * d) < 8 ^ d := by
  have hlt := leadingBits_lt a (c := 3 * d) (by omega)
  rwa [Nat.pow_mul] at hlt

/-- Every child of a node above depth 10 lies on the path of some key that passes the node. -/
theorem exists_key_of_group (a : Key) {d : Nat} (hd : d ≤ 9) (g : Fin 8) :
    ∃ b : Key, maskKey a (3 * d) = maskKey b (3 * d) ∧ group b d = g := by
  have hlt := leadingBits_lt_eight_pow a (d := d) (by omega)
  have hp : 8 * leadingBits a (3 * d) + g.val < 8 ^ (d + 1) := by rw [Nat.pow_succ]; omega
  have hpath := leadingBits_prefixAddr_path (by omega) hp (s := 0) (by decide)
  rw [leadingBits_succ_group hd] at hpath
  refine ⟨prefixAddr (d + 1) (8 * leadingBits a (3 * d) + g.val) 0, maskKey_eq_iff.2 ?_, Fin.ext ?_⟩
  · omega
  · omega

/-- Every route in a slot 0..6 is stored under some key and length. -/
theorem exists_storedAt_of_route {root n : Node} {a : Key} {d : Nat} (hd : d ≤ 10)
    (h : root.find a d = some n) {s : Fin 15} (hs : s.val ≤ 6) :
    ∃ (b : Key) (c : Nat), c ≤ 32 ∧ storedAt root b c = n.route s := by
  have hp := leadingBits_lt_eight_pow a hd
  have hk := slotK_le_two hs
  have hdepth : prefixLen d s / 3 = d := by unfold prefixLen; omega
  refine ⟨prefixAddr d (leadingBits a (3 * d)) s, prefixLen d s, by unfold prefixLen; omega, ?_⟩
  have hpath := maskKey_eq_iff.2 (leadingBits_prefixAddr_path hd hp hs)
  rw [storedAt_eq_routeAt, boundary_prefixAddr_slot hd hp hs, hdepth, routeAt_congr hd hpath,
    routeAt_eq_bind, h, Option.bind_some]

theorem Node.depth_lt_of_present {bits d : Nat} {n : Node} {g : Fin 8} (hlegal : n.legal bits d = true)
    (hp : n.present g = true) : d < 10 := by
  cases n with
  | bare b => cases calloc_of_present hp
  | full => simp_all [Node.legal]

theorem Node.depth_le_of_legal {bits d : Nat} {n : Node} (hlegal : n.legal bits d = true) : d ≤ 10 := by
  cases n with
  | bare b => simp_all [Node.legal]
  | full => simp_all [Node.legal]; omega

/-- A route in the subtree of a node on some path is stored under some key and length. -/
theorem exists_storedAt_of_hasRoute {bits : Nat} {root : Node} (hlegal : root.legal bits 0 = true)
    {n : Node} {a : Key} {d : Nat} (hfind : root.find a d = some n) (h : n.hasRoute = true) :
    ∃ (b : Key) (c : Nat), c ≤ 32 ∧ storedAt root b c ≠ none := by
  induction n using Node.kids_induction generalizing a d with
  | empty => cases h
  | step n ih =>
    have hn : n.legal bits d = true := by simpa using legal_findFrom hlegal hfind
    obtain hb | ⟨g, hg⟩ := n.hasRoute_iff.1 h
    · obtain ⟨s, hs, hroute⟩ := Node.exists_route_of_legal hn hb
      obtain ⟨b, c, hc, hstored⟩ := exists_storedAt_of_route (Node.depth_le_of_legal hn) hfind hs
      exact ⟨b, c, hc, hstored ▸ hroute⟩
    · cases hp : n.present g with
      | false => rw [Node.kidOrEmpty_of_absent hp] at hg; cases hg
      | true =>
        have hd := Node.depth_lt_of_present hn hp
        obtain ⟨b, hpath, rfl⟩ := exists_key_of_group a (d := d) (by omega) g
        refine ih _ (a := b) (d := d + 1) ?_ hg
        have hsame : root.find a d = root.find b d :=
          findFrom_congr root fun i _ hi => (maskKey_eq_iff_groups (by omega)).1 hpath i (by omega)
        rw [find_succ, ← hsame, hfind, Option.bind_some, if_pos hp, Node.kidOrEmpty_of_present hp]

theorem storedAt_bare_none (a : Key) (c : Nat) : storedAt (.bare none) a c = none := by
  rw [storedAt_eq_routeAt, routeAt_eq_routeFrom]
  exact routeFrom_empty ..

/-- The root of a legal trie is dead iff the table stores no route. -/
theorem Node.sweep_dead_iff_storedAt {bits : Nat} {root : Node} (hlegal : root.legal bits 0 = true) :
    root.sweep.dead = true ↔ ∀ (b : Key) (c : Nat), c ≤ 32 → storedAt root b c = none := by
  constructor
  · intro hdead b c _
    rw [← storedAt_sweep, root.sweep_dead.1 hdead, storedAt_bare_none]
  · intro hnone
    by_contra hdead
    rw [sweep_dead_eq, Bool.not_eq_true', Bool.not_eq_false] at hdead
    obtain ⟨b, c, hc, hstored⟩ := exists_storedAt_of_hasRoute (a := 0) (d := 0) hlegal rfl hdead
    exact hstored (hnone b c hc)

/-! ### CLEANUP (R141, R142) -/

theorem exec_cleanup {s : State} {L : Latch} {t : Nat} {T : Table} (c : Nat) (hlatch : s.latch = some L)
    (ht : s.tables[t]? = some T) (hlive : T.live = true) :
    exec (.cleanup c t) s = .next (((s.setTable t (T.mutated T.root.sweep.node)).free
      T.root.sweep.freedC T.root.sweep.freedS).okCompletion T.root.sweep.dead 0) := by
  have hrun : exec (.cleanup c t) s = execCleanup c t s := rfl
  rw [hrun, execCleanup, withLatch_some hlatch, withLiveTable_live ht hlive]
  rfl

/-- Settles O39: the sweep returns the blocks the trie no longer owns, leaves a reclaimed trie with the same
routes, and its nodes are swept nodes of the trie before. -/
theorem cleanupReclaimsDeadSubtrees : Obligations.CleanupReclaimsDeadSubtrees := by
  intro s L c t T hlatch ht hlive hlegal
  refine ⟨T.root.sweep.node, T.root.sweep.dead, T.root.sweep.freedC, T.root.sweep.freedS,
    exec_cleanup c hlatch ht hlive, T.root.freedC_sweep, T.root.freedS_sweep, T.root.reclaimed_sweep,
    fun b d _ => storedAt_sweep T.root b d, Node.sweep_dead_iff_storedAt hlegal, T.root.sweep_dead.1,
    fun b d n' _ hfind hne => ?_⟩
  obtain ⟨n, hn, rfl⟩ := findFrom_sweep hfind
  exact ⟨n, hn, n.sblk_sweep hne⟩

/-! ### CLEAR and RELEASE (R150, R170, R176) -/

/-- A table's part of the blocks in use is at most all of them (R23). -/
theorem State.owned_le_used {s : State} {t : Nat} {T : Table} (hpool : s.poolInv = true)
    (ht : s.tables[t]? = some T) : T.root.ownedC ≤ s.usedC ∧ T.root.ownedS ≤ s.usedS := by
  simp only [poolInv, Bool.and_eq_true, decide_eq_true_eq] at hpool
  obtain ⟨⟨⟨hC, hS⟩, -⟩, -⟩ := hpool
  have hmem : T ∈ s.tables := List.mem_of_getElem? ht
  rw [hC, hS]
  exact ⟨List.single_le_sum (fun _ _ => Nat.zero_le _) _ (List.mem_map_of_mem hmem),
    List.single_le_sum (fun _ _ => Nat.zero_le _) _ (List.mem_map_of_mem hmem)⟩

/-- CLEAR and RELEASE of a created table both empty it, RELEASE after marking it released. -/
theorem exec_clear_or_release {s : State} {L : Latch} {c t : Nat} {T : Table} {i : Instr}
    (hlatch : s.latch = some L) (ht : s.tables[t]? = some T) (hlive : T.live = true)
    (hi : i ∈ [Instr.clear c t, .release c t]) :
    ∃ live r, exec i s = .next ((s.emptyTable t { T with live := live }).complete (Result.flag r)) := by
  simp only [List.mem_cons, List.not_mem_nil, or_false] at hi
  obtain rfl | rfl := hi
  · have hrun : exec (.clear c t) s = execClear c t s := rfl
    rw [hrun, execClear, withLatch_some hlatch, withLiveTable_live ht hlive]
    exact ⟨T.live, false, rfl⟩
  · have hrun : exec (.release c t) s = execRelease c t s := rfl
    rw [hrun, execRelease, withLatch_some hlatch, withTable_some ht, if_pos hlive]
    exact ⟨false, true, rfl⟩

/-- Settles O45: both commands free what the table owned, which the pools count, and leave it empty. -/
theorem releaseLaws : Obligations.ReleaseLaws := by
  intro s s' L c t T i hlatch hpool ht hlive hi h
  obtain ⟨hC, hS⟩ := State.owned_le_used hpool ht
  obtain ⟨live, r, hrun⟩ := exec_clear_or_release hlatch ht hlive hi
  cases hrun.symm.trans h
  refine ⟨Nat.sub_add_cancel hC, Nat.sub_add_cancel hS,
    ⟨Table.mutated { T with live := live } .empty, ?_, rfl, rfl⟩, fun u hu => ?_⟩
  · simp [List.getElem?_set_self', ht]
  · exact List.getElem?_set_ne hu.symm

end Sys2Proof.Machine
end

section
/-! Errors and completions (60_exceptions.md): the checks of R182 as each command makes them, the interrupt
output (R190), the idle block (R198), and the commands on a released table (R183). -/

namespace Sys2Proof.Machine

/-! ### The engine's turn on an idle and on a busy block (R61, R198) -/

theorem State.busy_eq_false_iff (s : State) : s.busy = false ↔ s.latch = none := by
  simp [busy]

theorem State.busy_eq_true_iff (s : State) : s.busy = true ↔ ∃ L, s.latch = some L := by
  simp [busy, Option.isSome_iff_exists]

theorem engineTurn_idle {s : State} (h : s.latch = none) : engineTurn s = .next s := by
  simp [engineTurn, State.fetched, h]

/-- A legal word in flight is executed at the engine's turn. -/
theorem step_command {s : State} {L : Latch} {rest : List Event} {i : Instr}
    (hnext : s.engineNext rest) (hlatch : s.latch = some L) (hdec : decode L.cmd = .ok i) :
    step s = exec i { s with inputs := rest } := by
  rw [step_of_engineNext hnext]
  simp [engineTurn, State.fetched, hlatch, hdec]

/-- The engine's turn of a busy block is a completion: of an illegal word by its error, of a command by its
rule. -/
theorem step_completes {s s' : State} {L : Latch} {rest : List Event} (hnext : s.engineNext rest)
    (hlatch : s.latch = some L) (h : step s = .next s') : Completes { s with inputs := rest } s' := by
  cases hdec : decode L.cmd with
  | error x =>
    cases (step_illegal hnext hlatch hdec).symm.trans h
    exact completes_raise _ _
  | ok i => exact exec_completes ((step_command hnext hlatch hdec).symm.trans h)

/-- Settles O25: without a latch the engine has nothing to complete. -/
theorem idleBlockIsStill : Obligations.IdleBlockIsStill := by
  intro s rest hnext hidle
  have hlatch : s.latch = none := s.busy_eq_false_iff.1 hidle
  rw [step_of_engineNext hnext]
  exact engineTurn_idle hlatch

/-! ### The interrupt output (R190) -/

theorem State.irq_eq (s : State) : s.irq = (s.done && s.irqEn) := rfl

theorem Completes.irq {s s' : State} (h : Completes s s') : s'.irq = s.irqEn := by
  obtain ⟨ts, uc, us, r, rfl⟩ := h
  rw [State.irq_eq, State.complete_done, Bool.true_and]
  rfl

theorem State.irq_eq_false_of_done {s : State} (h : s.done = false) : s.irq = false := by
  rw [irq_eq, h, Bool.false_and]

theorem State.irq_eq_false_of_irqEn {s : State} (h : s.irqEn = false) : s.irq = false := by
  rw [irq_eq, h, Bool.and_false]

/-- Settles O24: every completion sets DONE and keeps IRQ_EN; of the three writes that clear the output, the
first two clear DONE and the third IRQ_EN. -/
theorem interruptIsLevel : Obligations.InterruptIsLevel := by
  refine ⟨State.irq_eq, fun s s' rest hnext hbusy hstep => ?_, fun s v => ⟨fun hbit => ?_, fun hidle => ?_,
    fun hbit => ?_⟩⟩
  · obtain ⟨L, hlatch⟩ := s.busy_eq_true_iff.1 hbusy
    exact (step_completes hnext hlatch hstep).irq
  · have hdone : (s.writeReg v .status).done = (s.done && !v.getLsbD 1) := rfl
    exact State.irq_eq_false_of_done (by rw [hdone, hbit, Bool.not_true, Bool.and_false])
  · have haccept : s.writeReg v .cmd = s.accept v :=
      State.writeCmd_of_idle v (s.busy_eq_false_iff.1 hidle)
    exact State.irq_eq_false_of_done (by rw [haccept, State.accept_done])
  · exact State.irq_eq_false_of_irqEn hbit

/-! ### The checks of R182, command by command -/

/-- Check 3 of R182 before the checks that answer `later`. -/
def State.tableError (s : State) (t : Nat) (later : Option ErrCode) : Option ErrCode :=
  if s.numTables ≤ t then some .badTable else later

/-- Checks 3 and 4 of R182 before the checks that answer `later`. -/
def State.liveTableError (s : State) (t : Nat) (later : Option ErrCode) : Option ErrCode :=
  s.tableError t (if s.isReleased t then some .released else later)

/-- Checks 3 to 7 of R182 for a decoded command: those that it makes, in their order. -/
def State.checkError (s : State) (L : Latch) : Instr → Option ErrCode
  | .nop _ _ => none
  | .add c t => s.liveTableError t
      (if 32 < c then some .badCidr else if s.needsMore t L.addr (c / 3) then some .nomem else none)
  | .delete c t => s.liveTableError t (if 32 < c then some .badCidr else none)
  | .enumNext _ t => s.liveTableError t (if s.noCursor t then some .enumInvalid else none)
  | .lookup _ t | .cleanup _ t | .clear _ t | .enumStart _ t => s.liveTableError t none
  | .release _ t | .create _ t => s.tableError t none

theorem State.commandError_reservedOp (s : State) {L : Latch} (h : 0xA ≤ opField L.cmd) :
    s.commandError L = some .badOp :=
  if_pos h

theorem State.commandError_reservedBits (s : State) {L : Latch} (hop : opField L.cmd < 0xA)
    (h : rsv0Field L.cmd ≠ 0 ∨ rsv1Field L.cmd ≠ 0) : s.commandError L = some .badCmd := by
  have hbits : L.cmd.extractLsb' 10 6 ≠ 0 ∨ L.cmd.extractLsb' 24 8 ≠ 0 :=
    h.imp BitVec.toNat_ne.2 BitVec.toNat_ne.2
  exact (if_neg (Nat.not_le.2 hop)).trans (if_pos hbits)

/-- The operands and the OP value of the command that the fields of a word name (R81, R88). -/
theorem commandOf_eq_some {op c t : Nat} {i : Instr} (h : commandOf op c t = some i) :
    i.opcode = op ∧ i.cidr = c ∧ i.table = t := by
  have hop : op < 0xA := by
    by_contra hge
    cases (commandOf_reserved c t (Nat.not_lt.1 hge)).symm.trans h
  interval_cases op <;> cases h <;> exact ⟨rfl, rfl, rfl⟩

/-- Over a word that passes checks 1 and 2, the table of R182 makes the checks of the command it names. -/
theorem State.commandError_command (s : State) {L : Latch} {i : Instr} (h0 : rsv0Field L.cmd = 0)
    (h1 : rsv1Field L.cmd = 0)
    (hi : commandOf (opField L.cmd) (cidrField L.cmd) (tableField L.cmd) = some i) :
    s.commandError L = s.checkError L i := by
  obtain ⟨hop, hc, ht⟩ := commandOf_eq_some hi
  have hop' : (L.cmd.extractLsb' 0 4).toNat = i.opcode := hop.symm
  have hc' : (L.cmd.extractLsb' 4 6).toNat = i.cidr := hc.symm
  have ht' : (L.cmd.extractLsb' 16 8).toNat = i.table := ht.symm
  have hrsv0 : L.cmd.extractLsb' 10 6 = 0 := BitVec.eq_of_toNat_eq h0
  have hrsv1 : L.cmd.extractLsb' 24 8 = 0 := BitVec.eq_of_toNat_eq h1
  unfold commandError
  rw [hop', hc', ht', hrsv0, hrsv1]
  cases i <;> simp [Instr.opcode, Instr.cidr, Instr.table, checkError, liveTableError, tableError]

/-- A command word fails in the decoder (checks 1 and 2) or names a command, whose checks are the rest. -/
theorem State.commandError_cases (s : State) (L : Latch) :
    (∃ x, decode L.cmd = .error x ∧ s.commandError L = some (illegalErr x)) ∨
      ∃ i, decode L.cmd = .ok i ∧ s.commandError L = s.checkError L i := by
  by_cases hop : 0xA ≤ opField L.cmd
  · exact .inl ⟨.badOp, decode_reservedOp hop, s.commandError_reservedOp hop⟩
  have hdef : opField L.cmd < 0xA := Nat.not_le.1 hop
  by_cases hrsv : rsv0Field L.cmd ≠ 0 ∨ rsv1Field L.cmd ≠ 0
  · exact .inl ⟨.badCmd, decode_reservedBits hdef hrsv, s.commandError_reservedBits hdef hrsv⟩
  · obtain ⟨h0, h1⟩ : rsv0Field L.cmd = 0 ∧ rsv1Field L.cmd = 0 := by simpa using hrsv
    obtain ⟨i, hi⟩ := commandOf_defined (cidrField L.cmd) (tableField L.cmd) hdef
    exact .inr ⟨i, decode_command h0 h1 hi, s.commandError_command h0 h1 hi⟩

/-! ### No fault under the trie invariants (R20, R186) -/

theorem State.legal_of_trieInv {s : State} {t : Nat} {T : Table} (h : s.trieInv = true)
    (ht : s.tables[t]? = some T) : T.root.legal s.cfg.payloadBits 0 = true := by
  have hT : Table.legal s.cfg.payloadBits T = true :=
    List.all_eq_true.1 h T (List.mem_of_getElem? ht)
  exact (Bool.and_eq_true_iff.1 hT).1

theorem blockK3_of_blockLegal {bits : Nat} {b : Option SlotBlock} (h : blockLegal bits b = true) :
    blockK3 b = false := by
  cases b with
  | none => rfl
  | some x =>
    have hmask : x.smask.extractLsb' 7 9 = 0 := of_decide_eq_true (Bool.and_eq_true_iff.1 h).1
    have hlow : x.smask.extractLsb' 7 8 = (x.smask.extractLsb' 7 9).setWidth 8 := by
      ext j hj
      have hj9 : j < 9 := by omega
      simp [hj9]
    simp [blockK3, hlow, hmask]

theorem Node.hasK3_kidOrEmpty (n : Node) (g : Fin 8) :
    (n.kidOrEmpty g).hasK3 = (n.present g && (n.kid g).hasK3) := by
  cases hp : n.present g with
  | true => rw [kidOrEmpty_of_present hp, Bool.true_and]
  | false => rw [kidOrEmpty_of_absent hp]; rfl

theorem Node.hasK3_iff (n : Node) :
    n.hasK3 = true ↔ blockK3 n.sblk = true ∨ ∃ g, (n.kidOrEmpty g).hasK3 = true := by
  cases n with
  | bare b => simp [hasK3, sblk, kidOrEmpty_bare, empty, blockK3]
  | full =>
    simp only [hasK3_kidOrEmpty, Fin.exists_fin_succ]
    simp [hasK3, present, cmask, sblk, kid, or_assoc]

/-- The traversal of a legal trie meets no occupied slot of 7..14 (R20). -/
theorem Node.hasK3_of_legal {bits d : Nat} {n : Node} (h : n.legal bits d = true) : n.hasK3 = false := by
  induction n using Node.kids_induction generalizing d with
  | empty => rfl
  | step n ih =>
    rw [Bool.eq_false_iff, Ne, n.hasK3_iff]
    rintro (hblk | ⟨g, hg⟩)
    · cases (blockK3_of_blockLegal (blockLegal_of_legal h)).symm.trans hblk
    · cases hp : n.present g with
      | true =>
        have hkid := legal_kid h hp
        rw [← kidOrEmpty_of_present hp] at hkid
        cases (ih g hkid).symm.trans hg
      | false =>
        rw [hasK3_kidOrEmpty, hp] at hg
        cases hg

/-- The LOOKUP walk over a legal trie ends in no fault (R20). -/
theorem Node.lookup_ne_error_of_legal {bits : Nat} {root : Node} (h : root.legal bits 0 = true) (a : Key)
    (f : Fault) : root.lookup a ≠ .error f := by
  rw [lookup_eq_longestBelow (noK3OnPath_of_legal h a)]
  nofun

/-! ### The first failing check gives the completion (R181, R182) -/

/-- What a command does once it passed its checks: it completes with ERR = OK, or it stops at a slot that no
state with the trie invariants holds (R20). -/
def PerformsRule (s : State) (o : Host.Outcome State Fault Refusal) : Prop :=
  (∃ s', o = .next s' ∧ s'.err = .ok) ∨ (∃ f, o = .fault f) ∧ s.trieInv = false

/-- The outcome of a command whose checks answer the given error, or none. -/
def Answers (s : State) (o : Host.Outcome State Fault Refusal) : Option ErrCode → Prop
  | some e => o = .next (s.errorCompletion e)
  | none => PerformsRule s o

section
variable {s : State} {o : Host.Outcome State Fault Refusal}

theorem PerformsRule.err_eq_ok {s' : State} (h : PerformsRule s o) (ho : o = .next s') :
    s'.err = .ok := by
  subst ho
  obtain ⟨s'', heq, hok⟩ | ⟨⟨f, hf⟩, -⟩ := h
  · cases heq; exact hok
  · cases hf

theorem PerformsRule.completes_ok (h : PerformsRule s o) (hinv : s.trieInv = true) :
    ∃ s', o = .next s' ∧ s'.err = .ok := by
  obtain hok | ⟨-, hbroken⟩ := h
  · exact hok
  · cases hinv.symm.trans hbroken

theorem answers_ok {s' : State} (h : s'.err = .ok) : Answers s (.next s') none := .inl ⟨s', rfl, h⟩

theorem answers_fault {f : Fault} (h : s.trieInv ≠ true) : Answers s (.fault f) none :=
  .inr ⟨⟨f, rfl⟩, Bool.eq_false_iff.2 h⟩

/-- One check: it fails with its error, or the later checks answer. -/
theorem answers_check {p : Prop} [Decidable p] (e : ErrCode) {later : Option ErrCode}
    (h : ¬ p → Answers s o later) :
    Answers s (if p then .next (s.raise e) else o) (if p then some e else later) := by
  by_cases hp : p
  · rw [if_pos hp, if_pos hp]; exact rfl
  · rw [if_neg hp, if_neg hp]; exact h hp

theorem answers_withTable {t : Nat} {k : Table → Host.Outcome State Fault Refusal}
    {later : Option ErrCode} (h : ∀ T, s.tables[t]? = some T → Answers s (k T) later) :
    Answers s (withTable t s k) (s.tableError t later) := by
  cases ht : s.tables[t]? with
  | none =>
    have hrange : s.numTables ≤ t := List.getElem?_eq_none_iff.1 ht
    rw [withTable_none ht, State.tableError, if_pos hrange]
    exact rfl
  | some T =>
    have hrange : ¬ s.numTables ≤ t := Nat.not_le.2 (List.getElem?_eq_some_iff.1 ht).1
    rw [withTable_some ht, State.tableError, if_neg hrange]
    exact h T ht

theorem answers_withLiveTable {t : Nat} {k : Table → Host.Outcome State Fault Refusal}
    {later : Option ErrCode} (h : ∀ T, s.tables[t]? = some T → Answers s (k T) later) :
    Answers s (withLiveTable t s k) (s.liveTableError t later) := by
  refine answers_withTable fun T ht => ?_
  have hreleased : s.isReleased t = !T.live := by simp [State.isReleased, ht]
  rw [hreleased]
  cases T.live with
  | false => exact rfl
  | true => exact h T ht

theorem answers_withLatch {L : Latch} (hlatch : s.latch = some L)
    {k : Latch → Host.Outcome State Fault Refusal} {e : Option ErrCode} (h : Answers s (k L) e) :
    Answers s (withLatch s k) e := by
  rwa [withLatch_some hlatch]

/-- Every command makes its checks of R182 in their order, then performs its rule. -/
theorem exec_answers {L : Latch} (hlatch : s.latch = some L) (i : Instr) :
    Answers s (exec i s) (s.checkError L i) := by
  cases i with
  | nop c t => exact answers_withLatch hlatch (answers_ok rfl)
  | add c t =>
    refine answers_withLatch hlatch (answers_withLiveTable fun T ht =>
      answers_check .badCidr fun _ => ?_)
    have hneed : s.needsMore t L.addr (c / 3) = s.short (T.root.need L.addr (c / 3)) := by
      simp [State.needsMore, State.short, ht]
    rw [hneed]
    exact answers_check .nomem fun _ => answers_ok rfl
  | delete c t =>
    refine answers_withLatch hlatch (answers_withLiveTable fun T _ =>
      answers_check .badCidr fun _ => ?_)
    cases T.root.remove L.addr c <;> exact answers_ok rfl
  | lookup c t =>
    refine answers_withLatch hlatch (answers_withLiveTable fun T ht => ?_)
    cases hres : T.root.lookup L.addr with
    | error f =>
      exact answers_fault fun hinv =>
        Node.lookup_ne_error_of_legal (State.legal_of_trieInv hinv ht) L.addr f hres
    | ok m => cases m <;> exact answers_ok rfl
  | enumNext c t =>
    refine answers_withLatch hlatch (answers_withLiveTable fun T ht => ?_)
    have hcursor : s.noCursor t = !T.ecurValid := by simp [State.noCursor, ht]
    rw [hcursor]
    refine answers_check .enumInvalid fun _ => ?_
    cases hk3 : T.root.hasK3 with
    | true =>
      exact answers_fault fun hinv =>
        Bool.false_ne_true ((Node.hasK3_of_legal (State.legal_of_trieInv hinv ht)).symm.trans hk3)
    | false => cases T.root.enumAll[T.ecurPos]? <;> exact answers_ok rfl
  | cleanup c t | clear c t | enumStart c t =>
    exact answers_withLatch hlatch (answers_withLiveTable fun T _ => answers_ok rfl)
  | release c t | create c t =>
    refine answers_withLatch hlatch (answers_withTable fun T _ => ?_)
    cases T.live <;> exact answers_ok rfl

end

/-- The engine's turn of a busy block answers the first failing check of R182. -/
theorem step_answers {s : State} {L : Latch} {rest : List Event} (hnext : s.engineNext rest)
    (hlatch : s.latch = some L) :
    Answers { s with inputs := rest } (step s) (s.commandError L) := by
  obtain ⟨x, hdec, herr⟩ | ⟨i, hdec, herr⟩ := s.commandError_cases L
  · rw [herr]
    exact step_illegal hnext hlatch hdec
  · rw [herr, step_command hnext hlatch hdec]
    exact exec_answers (s := { s with inputs := rest }) hlatch i

/-- Settles O29: the table of R182 answers with the decoder's error or with the checks of the decoded
command, and the commands make the same checks in the same order. -/
theorem errorIsFirstFailingCheck : Obligations.ErrorIsFirstFailingCheck := by
  intro s L rest hnext hlatch
  have hanswers := step_answers hnext hlatch
  constructor
  · intro e he
    rwa [he] at hanswers
  · intro hpass
    rw [hpass] at hanswers
    obtain ⟨x, -, herr⟩ | ⟨i, hdec, -⟩ := s.commandError_cases L
    · cases hpass.symm.trans herr
    · exact ⟨i, hdec, step_command hnext hlatch hdec, hanswers.completes_ok⟩

/-- Settles O28: a completion with an error is that of a failing check, which writes these registers only;
a command that passes its checks completes with OK. -/
theorem errorHasNoOtherEffect : Obligations.ErrorHasNoOtherEffect := by
  intro s s' rest hnext hbusy hstep herr
  obtain ⟨L, hlatch⟩ := s.busy_eq_true_iff.1 hbusy
  have hanswers := step_answers hnext hlatch
  cases hcheck : s.commandError L with
  | some e =>
    rw [hcheck] at hanswers
    cases hanswers.symm.trans hstep
    rfl
  | none =>
    rw [hcheck] at hanswers
    exact absurd (hanswers.err_eq_ok hstep) herr

/-! ### A released table (R183) -/

section
variable {s : State} {L : Latch} {t : Nat} {T : Table} (hlatch : s.latch = some L)
  (ht : s.tables[t]? = some T) (hreleased : T.live = false)
include hlatch ht hreleased

/-- Check 4 of R182, in the form in which the commands on a created table make it. -/
theorem latched_withLiveTable_released (k : Latch → Table → Host.Outcome State Fault Refusal) :
    (withLatch s fun L => withLiveTable t s (k L)) = .next (s.errorCompletion .released) := by
  rw [withLatch_some hlatch, withLiveTable_released ht hreleased, State.raise_eq]

theorem exec_release_released (c : Nat) :
    exec (.release c t) s = .next ((s.setTable t { T with ecurValid := false }).okCompletion false 0) := by
  have hrun : exec (.release c t) s = execRelease c t s := rfl
  rw [hrun, execRelease, withLatch_some hlatch, withTable_some ht, hreleased]
  rfl

theorem exec_create_released (c : Nat) :
    exec (.create c t) s =
      .next ((s.setTable t { T with live := true, ecurValid := false }).okCompletion true 0) := by
  have hrun : exec (.create c t) s = execCreate c t s := rfl
  rw [hrun, execCreate, withLatch_some hlatch, withTable_some ht, hreleased]
  rfl

end

/-- Settles O31: check 4 of R182 stops the seven commands; RELEASE and CREATE do not make it. -/
theorem releasedTableCommands : Obligations.ReleasedTableCommands := by
  intro s L c t T hlatch ht hreleased
  refine ⟨fun i hi => ?_, ⟨_, exec_release_released hlatch ht hreleased c, rfl, rfl⟩,
    ⟨_, { T with live := true, ecurValid := false }, exec_create_released hlatch ht hreleased c, ?_, rfl⟩⟩
  · simp only [List.mem_cons, List.not_mem_nil, or_false] at hi
    obtain rfl | rfl | rfl | rfl | rfl | rfl | rfl := hi <;>
      exact latched_withLiveTable_released hlatch ht hreleased _
  · simp [List.getElem?_set_self', ht]

end Sys2Proof.Machine
end

section
/-! What a step can do, said once: what a host access leaves alone, what a command makes of its table, the
pools and the result registers, and which of these a step is. The frames of R5, R11, R61 and R214 and the
rules of the cursor (R158, R160) follow by cases. -/

namespace Sys2Proof.Machine

/-! ### What a host access leaves alone (R214) -/

/-- Two states that differ at most in the registers that host accesses change: CMD, the latch, DONE,
OVERRUN, IRQ_EN, ADDR, PAYLOAD_IN and the word driven last. -/
structure SameBlock (s s' : State) : Prop where
  cfg : s'.cfg = s.cfg
  tables : s'.tables = s.tables
  usedC : s'.usedC = s.usedC
  usedS : s'.usedS = s.usedS
  res : s'.res = s.res
  err : s'.err = s.err
  resAddr : s'.resAddr = s.resAddr
  resCidr : s'.resCidr = s.resCidr
  resPayload : s'.resPayload = s.resPayload
  inputs : s'.inputs = s.inputs

theorem State.writeCmd_sameBlock (s : State) (v : Word) : SameBlock s (s.writeCmd v) := by
  cases hlatch : s.latch with
  | none => rw [writeCmd_of_idle v hlatch]; constructor <;> rfl
  | some L => rw [writeCmd_of_busy v hlatch]; constructor <;> rfl

theorem State.writeReg_sameBlock (s : State) (v : Word) (r : Reg) : SameBlock s (s.writeReg v r) := by
  cases r with
  | cmd => exact s.writeCmd_sameBlock v
  | status | ctrl | addr | payloadIn i => constructor <;> rfl
  | resAddr | resCidr | freeCblocks | freeSblocks | params | capCblocks | capSblocks | resPayload i
  | unmapped => constructor <;> rfl

theorem hostAccess_sameBlock {a : Access} {s s' : State} (h : hostAccess a s = .next s') :
    SameBlock s s' := by
  obtain ⟨_, _, _, -, -, rfl⟩ | ⟨_, _, v, off, -, -, rfl⟩ := hostAccess_next h
  · constructor <;> rfl
  · exact s.writeReg_sameBlock v _

/-- Settles O23: the accesses leave the counts and the capacities, so the free counts read the same. -/
theorem resultsHoldUntilCompletion : Obligations.ResultsHoldUntilCompletion := by
  intro s s' a rest hinputs hstep
  have hsame : SameBlock { s with inputs := rest } s' :=
    hostAccess_sameBlock ((step_access hinputs).symm.trans hstep)
  refine ⟨hsame.res, hsame.err, hsame.resAddr, hsame.resCidr, hsame.resPayload, ?_, ?_, hsame.tables⟩
  · simp [State.readReg, State.freeC, hsame.cfg, hsame.usedC]
  · simp [State.readReg, State.freeS, hsame.cfg, hsame.usedS]

/-! ### What a command makes of its table and of the pools -/

/-- The table and the pool counts that a command leaves which changes its table T (R110, R120, R140, R150,
R156, R157, R170, R172). -/
inductive TableUpdate (s : State) (L : Latch) (T : Table) : Instr → Table → Nat → Nat → Prop
  | add {c t : Nat} (hlive : T.live = true) (hc : c ≤ 32)
      (hroom : s.short (T.root.need L.addr (c / 3)) = false) :
      TableUpdate s L T (.add c t) (T.mutated (T.root.insert L.addr c L.payload).node)
        (s.usedC + (T.root.insert L.addr c L.payload).nc)
        (s.usedS + (T.root.insert L.addr c L.payload).ns)
  | delete {c t : Nat} (hlive : T.live = true) :
      TableUpdate s L T (.delete c t) (T.mutated ((T.root.remove L.addr c).getD T.root)) s.usedC s.usedS
  | cleanup {c t : Nat} (hlive : T.live = true) :
      TableUpdate s L T (.cleanup c t) (T.mutated T.root.sweep.node)
        (s.usedC - T.root.sweep.freedC) (s.usedS - T.root.sweep.freedS)
  | clear {c t : Nat} :
      TableUpdate s L T (.clear c t) (T.mutated .empty) (s.usedC - T.root.ownedC)
        (s.usedS - T.root.ownedS)
  | enumStart {c t : Nat} :
      TableUpdate s L T (.enumStart c t) { T with ecurValid := true, ecurPos := 0 } s.usedC s.usedS
  | enumNext {c t : Nat} (hvalid : T.ecurValid = true) :
      TableUpdate s L T (.enumNext c t) { T with ecurPos := T.ecurPos + 1 } s.usedC s.usedS
  | release {c t : Nat} :
      TableUpdate s L T (.release c t) (Table.mutated { T with live := false } .empty)
        (s.usedC - T.root.ownedC) (s.usedS - T.root.ownedS)
  | releaseReleased {c t : Nat} :
      TableUpdate s L T (.release c t) { T with ecurValid := false } s.usedC s.usedS
  | create {c t : Nat} :
      TableUpdate s L T (.create c t) { T with live := true, ecurValid := false } s.usedC s.usedS

/-- The results of a command that passes its checks: a flag, LOOKUP's best match (R115), or an element of an
enumeration (R157). -/
inductive Answer (s : State) (L : Latch) : Result → Prop
  | flag (r : Bool) : Answer s L (Result.flag r)
  | found {T : Table} {m : Option Payload} (hT : T ∈ s.tables) (hm : T.root.lookup L.addr = .ok m) :
      Answer s L (Result.withPayload m.isSome (m.getD 0))
  | element {T : Table} {e : Entry} (hT : T ∈ s.tables) (he : e ∈ T.root.enumAll) :
      Answer s L (Result.triple e)

/-- The commands that can complete without error and leave their table as it was. -/
def mayOnlyAnswer : Instr → Bool
  | .nop _ _ | .lookup _ _ | .enumNext _ _ => true
  | _ => false

/-- How a command ends: in an error, in an answer alone, or in an answer and a change of its table. -/
inductive Ending (s : State) (L : Latch) (i : Instr) : State → Prop
  | error {e : ErrCode} (he : e ≠ .ok) : Ending s L i (s.raise e)
  | answer {r : Result} (hi : mayOnlyAnswer i = true) (hr : Answer s L r) :
      Ending s L i (s.complete r)
  | update {T T' : Table} {uc us : Nat} {r : Result} (hT : s.tables[i.table]? = some T)
      (hu : TableUpdate s L T i T' uc us) (hr : Answer s L r) :
      Ending s L i ((s.withTables (s.tables.set i.table T') uc us).complete r)

theorem StoppedByTable.ending {t : Nat} {s s' : State} (h : StoppedByTable t s s') (L : Latch) (i : Instr) :
    Ending s L i s' := by
  obtain ⟨-, rfl⟩ | ⟨-, -, -, rfl⟩ := h <;> exact .error nofun

/-- The inversion lemmas of the ten commands, in one. -/
theorem exec_ending {i : Instr} {s s' : State} (h : exec i s = .next s') :
    ∃ L, s.latch = some L ∧ Ending s L i s' := by
  cases i with
  | nop c t =>
    obtain ⟨L, hL, rfl⟩ := execNop_next (c := c) (t := t) h
    exact ⟨L, hL, .answer rfl (.flag _)⟩
  | add c t =>
    obtain ⟨L, hL, hstop | ⟨T, hT, hlive, ⟨-, rfl⟩ | ⟨-, -, rfl⟩ | ⟨hc, hroom, rfl⟩⟩⟩ := execAdd_next h
    · exact ⟨L, hL, hstop.ending L _⟩
    · exact ⟨L, hL, .error nofun⟩
    · exact ⟨L, hL, .error nofun⟩
    · exact ⟨L, hL, .update (i := .add c t) hT (.add hlive hc hroom) (.flag _)⟩
  | lookup c t =>
    obtain ⟨L, hL, hstop | ⟨T, m, hT, -, hm, rfl⟩⟩ := execLookup_next (c := c) h
    · exact ⟨L, hL, hstop.ending L _⟩
    · exact ⟨L, hL, .answer rfl (.found (List.mem_of_getElem? hT) hm)⟩
  | delete c t =>
    obtain ⟨L, hL, hstop | ⟨T, hT, hlive, ⟨-, rfl⟩ | ⟨-, rfl⟩⟩⟩ := execDelete_next h
    · exact ⟨L, hL, hstop.ending L _⟩
    · exact ⟨L, hL, .error nofun⟩
    · exact ⟨L, hL, .update (i := .delete c t) hT (.delete hlive) (.flag _)⟩
  | cleanup c t =>
    obtain ⟨L, hL, hstop | ⟨T, hT, hlive, rfl⟩⟩ := execCleanup_next (c := c) h
    · exact ⟨L, hL, hstop.ending L _⟩
    · exact ⟨L, hL, .update (i := .cleanup c t) hT (.cleanup hlive) (.flag _)⟩
  | clear c t =>
    obtain ⟨L, hL, hstop | ⟨T, hT, -, rfl⟩⟩ := execClear_next (c := c) h
    · exact ⟨L, hL, hstop.ending L _⟩
    · exact ⟨L, hL, .update (i := .clear c t) hT .clear (.flag _)⟩
  | enumStart c t =>
    obtain ⟨L, hL, hstop | ⟨T, hT, -, rfl⟩⟩ := execEnumStart_next (c := c) h
    · exact ⟨L, hL, hstop.ending L _⟩
    · exact ⟨L, hL, .update (i := .enumStart c t) hT .enumStart (.flag _)⟩
  | enumNext c t =>
    obtain ⟨L, hL, hstop | ⟨T, hT, -, ⟨-, rfl⟩ | ⟨-, -, -, rfl⟩ | ⟨e, hvalid, -, he, rfl⟩⟩⟩ :=
      execEnumNext_next (c := c) h
    · exact ⟨L, hL, hstop.ending L _⟩
    · exact ⟨L, hL, .error nofun⟩
    · exact ⟨L, hL, .answer rfl (.flag _)⟩
    · exact ⟨L, hL, .update (i := .enumNext c t) hT (.enumNext hvalid)
        (.element (List.mem_of_getElem? hT) (List.mem_of_getElem? he))⟩
  | release c t =>
    obtain ⟨L, hL, ⟨-, rfl⟩ | ⟨T, hT, ⟨-, rfl⟩ | ⟨-, rfl⟩⟩⟩ := execRelease_next (c := c) h
    · exact ⟨L, hL, .error nofun⟩
    · exact ⟨L, hL, .update (i := .release c t) hT .release (.flag _)⟩
    · exact ⟨L, hL, .update (i := .release c t) hT .releaseReleased (.flag _)⟩
  | create c t =>
    obtain ⟨L, hL, ⟨-, rfl⟩ | ⟨T, hT, rfl⟩⟩ := execCreate_next (c := c) h
    · exact ⟨L, hL, .error nofun⟩
    · exact ⟨L, hL, .update (i := .create c t) hT .create (.flag _)⟩

theorem Answer.err_eq_ok {s : State} {L : Latch} {r : Result} (h : Answer s L r) : r.err = .ok := by
  cases h <;> rfl

/-! ### What a step is -/

/-- What the event at the head of the stream does to the block, the event itself taken away. -/
inductive Turn (s : State) : State → Prop
  | idle : Turn s s
  | access {a : Access} {s' : State} (h : hostAccess a s = .next s') : Turn s s'
  | illegal (x : Illegal) : Turn s (s.raise (illegalErr x))
  | command {L : Latch} {i : Instr} {s' : State} (hL : s.latch = some L) (h : Ending s L i s') : Turn s s'
  | reset : Turn s s.afterReset

theorem engineTurn_turn {s s' : State} (h : engineTurn s = .next s') : Turn s s' := by
  obtain ⟨-, hidle⟩ | ⟨-, x, -, -, herr⟩ | ⟨-, i, -, -, hexec⟩ := engineTurn_cases s
  · cases hidle.symm.trans h; exact .idle
  · cases herr.symm.trans h; exact .illegal x
  · obtain ⟨L, hL, hend⟩ := exec_ending (hexec.symm.trans h)
    exact .command hL hend

theorem step_turn {s s' : State} (h : step s = .next s') : ∃ rest, Turn { s with inputs := rest } s' := by
  obtain ⟨-, heq⟩ | ⟨a, rest, -, heq⟩ | ⟨rest, -, heq⟩ | ⟨rest, -, heq⟩ := step_cases s
  · exact ⟨s.inputs, engineTurn_turn (heq.symm.trans h)⟩
  · exact ⟨rest, .access (heq.symm.trans h)⟩
  · exact ⟨rest, engineTurn_turn (heq.symm.trans h)⟩
  · cases heq.symm.trans h; exact ⟨rest, .reset⟩

/-! ### Frames (R5, R11, R61) -/

/-- A command writes at most its own table. -/
theorem Ending.tables_eq {s s' : State} {L : Latch} {i : Instr} (h : Ending s L i s') :
    s'.tables.length = s.tables.length ∧ ∀ u, u ≠ i.table → s'.tables[u]? = s.tables[u]? := by
  cases h with
  | error | answer => exact ⟨rfl, fun _ _ => rfl⟩
  | update => exact ⟨List.length_set, fun u hu => List.getElem?_set_ne hu.symm⟩

theorem Completes.cfg {s s' : State} (h : Completes s s') : s'.cfg = s.cfg := by
  obtain ⟨_, _, _, _, rfl⟩ := h; rfl

/-- Settles O50: a completion writes the result registers, DONE and the latch, and a command at most its own
table. -/
theorem commandFrame : Obligations.CommandFrame := by
  intro i s s' h
  obtain ⟨L, -, hend⟩ := exec_ending h
  have htables := hend.tables_eq
  obtain ⟨_, _, _, _, rfl⟩ := exec_completes h
  exact ⟨rfl, rfl, rfl, rfl, rfl, rfl, rfl, rfl, rfl, rfl, htables⟩

theorem Ending.cfg {s s' : State} {L : Latch} {i : Instr} (h : Ending s L i s') : s'.cfg = s.cfg := by
  cases h <;> rfl

/-- Settles O58: no event writes a parameter or the length of the list of tables. -/
theorem stepKeepsParameters : Obligations.StepKeepsParameters := by
  intro s s' hstep
  obtain ⟨rest, hturn⟩ := step_turn hstep
  cases hturn with
  | idle | illegal => exact ⟨rfl, rfl⟩
  | access h =>
    have hsame := hostAccess_sameBlock h
    exact ⟨hsame.cfg, congrArg List.length hsame.tables⟩
  | command _ h => exact ⟨h.cfg, h.tables_eq.1⟩
  | reset => exact ⟨rfl, List.length_replicate⟩

/-! ### The cursor (R158, R160) -/

/-- R158 for one table: its cursor is valid now, so the trie is the old one, and the position is the old one,
the next one, or the first. -/
def CursorStable (T T' : Table) : Prop :=
  T'.root = T.root ∧ T'.live = T.live ∧
    (T'.ecurPos = 0 ∨ T.ecurValid = true ∧ (T'.ecurPos = T.ecurPos ∨ T'.ecurPos = T.ecurPos + 1))

theorem cursorStable_refl {T : Table} (h : T.ecurValid = true) : CursorStable T T :=
  ⟨rfl, rfl, .inr ⟨h, .inl rfl⟩⟩

theorem TableUpdate.cursorStable {s : State} {L : Latch} {T T' : Table} {i : Instr} {uc us : Nat}
    (h : TableUpdate s L T i T' uc us) (hvalid : T'.ecurValid = true) : CursorStable T T' := by
  cases h with
  | add | delete | cleanup | clear | release | releaseReleased | create => cases hvalid
  | enumStart => exact ⟨rfl, rfl, .inl rfl⟩
  | enumNext hv => exact ⟨rfl, rfl, .inr ⟨hv, .inr rfl⟩⟩

/-- A table after a command: it is the one before, or the command's own with the update of the command. -/
theorem Ending.table_cases {s s' : State} {L : Latch} {i : Instr} {u : Nat} {T' : Table}
    (h : Ending s L i s') (ht : s'.tables[u]? = some T') :
    s.tables[u]? = some T' ∨ (u = i.table ∧ s'.err = .ok ∧
      ∃ T uc us, s.tables[u]? = some T ∧ TableUpdate s L T i T' uc us) := by
  cases h with
  | error | answer => exact .inl ht
  | @update T T₁ uc us r hT hu hr =>
    by_cases hut : u = i.table
    · subst hut
      have hset : (s.tables.set i.table T₁)[i.table]? = some T₁ := by
        simp [List.getElem?_set_self', hT]
      cases hset.symm.trans ht
      exact .inr ⟨rfl, hr.err_eq_ok, T, uc, us, hT, hu⟩
    · exact .inl ((List.getElem?_set_ne (Ne.symm hut)).symm.trans ht)

/-- Settles O47: a table whose cursor is valid after a step was not written, or by ENUM_START or ENUM_NEXT. -/
theorem enumerationIsStable : Obligations.EnumerationIsStable := by
  intro s s' t T' hstep ht hvalid
  obtain ⟨rest, hturn⟩ := step_turn hstep
  cases hturn with
  | idle | illegal => exact ⟨T', ht, cursorStable_refl hvalid⟩
  | access h =>
    rw [(hostAccess_sameBlock h).tables] at ht
    exact ⟨T', ht, cursorStable_refl hvalid⟩
  | command _ h =>
    obtain hsame | ⟨-, -, T, _, _, hT, hu⟩ := h.table_cases ht
    · exact ⟨T', hsame, cursorStable_refl hvalid⟩
    · exact ⟨T, hT, hu.cursorStable hvalid⟩
  | reset =>
    obtain ⟨-, rfl⟩ := List.mem_replicate.1 (List.mem_of_getElem? ht)
    cases hvalid

/-- A command that completes without error, and that does not only answer, updates its table. -/
theorem Ending.table_updated {s s' : State} {L : Latch} {i : Instr} {T T' : Table} (h : Ending s L i s')
    (hok : s'.err = .ok) (hi : mayOnlyAnswer i = false) (hT : s.tables[i.table]? = some T)
    (hT' : s'.tables[i.table]? = some T') : ∃ uc us, TableUpdate s L T i T' uc us := by
  cases h with
  | error he => exact absurd hok he
  | answer hanswer => cases hanswer.symm.trans hi
  | @update T₀ T₁ uc us r hT₀ hu hr =>
    have hset : (s.tables.set i.table T₁)[i.table]? = some T₁ := by
      simp [List.getElem?_set_self', hT]
    cases hset.symm.trans hT'
    cases hT₀.symm.trans hT
    exact ⟨uc, us, hu⟩

/-- Settles O48: the updates of the six mutating commands clear the validity, that of ENUM_START sets the
cursor to 0, that of ENUM_NEXT moves a valid cursor, and an error or another table's command writes none. -/
theorem cursorInvalidation : Obligations.CursorInvalidation := by
  intro s s' c t u i T T' hexec hT hT'
  obtain ⟨L, -, hend⟩ := exec_ending hexec
  refine ⟨fun hok hut hi => ?_, fun hi => ?_, fun hok hut hi => ?_, fun hother => ?_⟩
  · subst hut
    simp only [List.mem_cons, List.not_mem_nil, or_false] at hi
    obtain rfl | rfl | rfl | rfl | rfl | rfl := hi
    all_goals
      obtain ⟨_, _, hu⟩ := hend.table_updated hok rfl hT hT'
      cases hu <;> rfl
  · obtain hsame | ⟨rfl, -, T₀, _, _, hT₀, hu⟩ := hend.table_cases hT'
    · cases hsame.symm.trans hT; rfl
    · cases hT₀.symm.trans hT
      simp only [List.mem_cons, List.not_mem_nil, or_false] at hi
      obtain rfl | rfl | rfl := hi <;> cases hu
      rfl
  · subst hut hi
    obtain ⟨_, _, hu⟩ := hend.table_updated hok rfl hT hT'
    cases hu
    exact ⟨rfl, rfl⟩
  · obtain hsame | ⟨hut, hok, -⟩ := hend.table_cases hT'
    · cases hsame.symm.trans hT
      exact ⟨rfl, rfl⟩
    · exact absurd hother (by simp [hut, hok])

/-! ### Commands do not depend on other tables (R11) -/

/-- An outcome with its next state, if it has one, replaced by a function of it. -/
def mapNext (f : State → State) : Host.Outcome State Fault Refusal → Host.Outcome State Fault Refusal
  | .next s => .next (f s)
  | .fault e => .fault e
  | .refused e => .refused e

section
variable {s : State} {t u : Nat} {U : Table}

theorem withLatch_setTable {k k' : Latch → Host.Outcome State Fault Refusal}
    (h : ∀ L, k' L = mapNext (State.setTable u U) (k L)) :
    withLatch (s.setTable u U) k' = mapNext (State.setTable u U) (withLatch s k) := by
  unfold withLatch
  rw [State.setTable_latch]
  cases s.latch with
  | none => rfl
  | some L => exact h L

theorem withTable_setTable (hut : u ≠ t) {k k' : Table → Host.Outcome State Fault Refusal}
    (h : ∀ T, k' T = mapNext (State.setTable u U) (k T)) :
    withTable t (s.setTable u U) k' = mapNext (State.setTable u U) (withTable t s k) := by
  unfold withTable
  rw [State.setTable_tables, List.getElem?_set_ne hut]
  cases s.tables[t]? with
  | none => rfl
  | some T => exact h T

theorem withLiveTable_setTable (hut : u ≠ t) {k k' : Table → Host.Outcome State Fault Refusal}
    (h : ∀ T, k' T = mapNext (State.setTable u U) (k T)) :
    withLiveTable t (s.setTable u U) k' = mapNext (State.setTable u U) (withLiveTable t s k) := by
  refine withTable_setTable hut fun T => ?_
  cases T.live with
  | false => rfl
  | true => exact h T

theorem withCidr_setTable {c : Nat} {k k' : Host.Outcome State Fault Refusal}
    (h : k' = mapNext (State.setTable u U) k) :
    withCidr c (s.setTable u U) k' = mapNext (State.setTable u U) (withCidr c s k) := by
  unfold withCidr
  by_cases hc : 32 < c
  · rw [if_pos hc, if_pos hc]; rfl
  · rw [if_neg hc, if_neg hc]; exact h

/-- Writes of different tables commute. -/
theorem State.setTable_comm (hut : u ≠ t) (T : Table) :
    (s.setTable u U).setTable t T = (s.setTable t T).setTable u U := by
  simp [setTable, List.set_comm _ _ hut]

/-- A command that writes its table and completes does so beside any other table. -/
theorem complete_setTable (hut : u ≠ t) (f : State → State)
    (hf : ∀ v : State, f (v.setTable u U) = (f v).setTable u U) (T : Table) (r : Result) :
    Host.Outcome.next (φ := Fault) (ρ := Refusal) ((f ((s.setTable u U).setTable t T)).complete r) =
      mapNext (State.setTable u U) (.next ((f (s.setTable t T)).complete r)) := by
  rw [State.setTable_comm hut, hf]; rfl

end

/-- What a command does is the same whatever another table holds, which it leaves in place. -/
theorem exec_setTable (i : Instr) (s : State) {u : Nat} (U : Table) (hu : u ≠ i.table) :
    exec i (s.setTable u U) = mapNext (State.setTable u U) (exec i s) := by
  cases i with
  | nop c t => exact withLatch_setTable fun _ => rfl
  | add c t =>
    refine withLatch_setTable fun L => withLiveTable_setTable hu fun T => withCidr_setTable ?_
    have hshort : (s.setTable u U).short = s.short := rfl
    rw [hshort]
    cases s.short (T.root.need L.addr (c / 3)) with
    | true => rfl
    | false => exact complete_setTable hu (State.allocate _ _) (fun _ => rfl) _ _
  | lookup c t =>
    refine withLatch_setTable fun L => withLiveTable_setTable hu fun T => ?_
    cases T.root.lookup L.addr with
    | error f => rfl
    | ok m => cases m <;> rfl
  | delete c t =>
    refine withLatch_setTable fun L => withLiveTable_setTable hu fun T => withCidr_setTable ?_
    cases T.root.remove L.addr c <;> exact complete_setTable hu id (fun _ => rfl) _ _
  | cleanup c t =>
    exact withLatch_setTable fun _ => withLiveTable_setTable hu fun T =>
      complete_setTable hu (State.free _ _) (fun _ => rfl) _ _
  | clear c t =>
    exact withLatch_setTable fun _ => withLiveTable_setTable hu fun T =>
      complete_setTable hu (State.free _ _) (fun _ => rfl) _ _
  | enumStart c t =>
    exact withLatch_setTable fun _ => withLiveTable_setTable hu fun T =>
      complete_setTable hu id (fun _ => rfl) _ _
  | enumNext c t =>
    refine withLatch_setTable fun _ => withLiveTable_setTable hu fun T => ?_
    cases T.ecurValid with
    | false => rfl
    | true =>
      cases T.root.hasK3 with
      | true => rfl
      | false =>
        cases T.root.enumAll[T.ecurPos]? with
        | none => rfl
        | some e => exact complete_setTable hu id (fun _ => rfl) _ _
  | release c t =>
    refine withLatch_setTable fun _ => withTable_setTable hu fun T => ?_
    cases T.live with
    | true => exact complete_setTable hu (State.free _ _) (fun _ => rfl) _ _
    | false => exact complete_setTable hu id (fun _ => rfl) _ _
  | create c t =>
    refine withLatch_setTable fun _ => withTable_setTable hu fun T => ?_
    cases T.live <;> exact complete_setTable hu id (fun _ => rfl) _ _

/-- Settles O49: a command leaves the other tables, and runs the same beside any of them. -/
theorem tablesAreIndependent : Obligations.TablesAreIndependent := by
  intro i s u U hu
  refine ⟨fun s' h => ⟨?_, ?_⟩, fun f h => ?_⟩
  · obtain ⟨L, -, hend⟩ := exec_ending h
    exact hend.tables_eq.2 u hu
  · rw [exec_setTable i s U hu, h]; rfl
  · rw [exec_setTable i s U hu, h]; rfl

end Sys2Proof.Machine
end

section
/-! The trie invariants (R12, R15, R19, R20, R22): a legal node through its slot block, its masks and its
records, what each walk that writes the trie keeps of them, and every step. -/

namespace Sys2Proof.Machine

/-! ### Payloads and slot blocks that are legal (R20, R32) -/

theorem payloadFits_iff (bits : Nat) (p : Payload) : payloadFits bits p = true ↔ trimPayload bits p = p :=
  decide_eq_true_iff

@[simp] theorem payloadFits_zero (bits : Nat) : payloadFits bits 0 = true := by
  simp [payloadFits, trimPayload]

/-- A block is legal when no bit of 7..15 is set in its mask and its payloads are PAYLOAD_BITS wide. -/
theorem blockLegal_some_iff (bits : Nat) (b : SlotBlock) :
    blockLegal bits (some b) = true ↔
      (∀ j, 7 ≤ j → b.smask.getLsbD j = false) ∧ ∀ s, payloadFits bits (b.slots.get s) = true := by
  have hslots : ∀ s, s ∈ allSlots := by decide
  have hmask : b.smask.extractLsb' 7 9 = 0 ↔ ∀ j, 7 ≤ j → b.smask.getLsbD j = false := by
    constructor
    · intro h j hj
      by_cases hj16 : j < 16
      · have hbit := congrArg (BitVec.getLsbD · (j - 7)) h
        have hlt : j - 7 < 9 := by omega
        simpa [BitVec.getLsbD_extractLsb', Nat.add_sub_cancel' hj, hlt] using hbit
      · exact BitVec.getLsbD_of_ge _ _ (by omega)
    · intro h
      refine BitVec.eq_of_getLsbD_eq fun j hj => ?_
      simp [BitVec.getLsbD_extractLsb', h (7 + j) (by omega)]
  simp only [blockLegal, Bool.and_eq_true, decide_eq_true_eq, List.all_eq_true, hmask]
  simp [hslots]

theorem blockLegal_fresh (bits : Nat) : blockLegal bits (some SlotBlock.fresh) = true := by
  refine (blockLegal_some_iff _ _).2 ⟨fun j _ => by simp [SlotBlock.fresh], fun s => ?_⟩
  have hzero : SlotBlock.fresh.slots.get s = 0 := by simp [SlotBlock.fresh, Vector.get_eq_getElem]
  rw [hzero, payloadFits_zero]

theorem blockLegal_store {bits : Nat} {b : SlotBlock} (h : blockLegal bits (some b) = true) {s : Fin 15}
    (hs : s.val ≤ 6) {p : Payload} (hp : payloadFits bits p = true) :
    blockLegal bits (some (b.store s p)) = true := by
  rw [blockLegal_some_iff] at h ⊢
  obtain ⟨hmask, hfits⟩ := h
  refine ⟨fun j hj => ?_, fun t => ?_⟩
  · have hne : j - s.val ≠ 0 := by omega
    simp [SlotBlock.store, hmask j hj, hne]
  · rw [SlotBlock.get_store]
    split
    · exact hp
    · exact hfits t

theorem blockLegal_vacate {bits : Nat} {b : SlotBlock} (h : blockLegal bits (some b) = true) (s : Fin 15) :
    blockLegal bits (some (b.vacate s)) = true := by
  rw [blockLegal_some_iff] at h ⊢
  obtain ⟨hmask, hfits⟩ := h
  exact ⟨fun j hj => by simp [SlotBlock.vacate, hmask j hj], hfits⟩

/-! ### A legal node through its records -/

theorem Node.isEmpty_iff (n : Node) : n.isEmpty = true ↔ n = .empty := by
  cases n with
  | bare b => cases b <;> simp [isEmpty, empty]
  | full => simp [isEmpty, empty]

/-- What is legal of record g: the child is, or the record is the empty node (R15). -/
def RecordLegal (bits d : Nat) (n : Node) (g : Fin 8) : Prop :=
  if n.present g = true then (n.kid g).legal bits (d + 1) = true else n.kid g = .empty

theorem recordLegal_iff (n : Node) (bits d : Nat) (g : Fin 8) :
    recordLegal n.cmask g.val (n.kid g) ((n.kid g).legal bits (d + 1)) = true ↔
      RecordLegal bits d n g := by
  unfold recordLegal RecordLegal
  rw [show n.cmask.getLsbD g.val = n.present g from rfl]
  cases n.present g with
  | true => exact Iff.rfl
  | false => exact (n.kid g).isEmpty_iff

/-- The invariants of a node at depth d, in the terms of node reads (R15, R19, R20, R22). -/
theorem Node.legal_iff (bits : Nat) (n : Node) (d : Nat) :
    n.legal bits d = true ↔ d ≤ 10 ∧ blockLegal bits n.sblk = true ∧
      (n.calloc = true → d < 10 ∧ n.cmask ≠ 0) ∧ ∀ g, RecordLegal bits d n g := by
  cases n with
  | bare b =>
    have hrecord : ∀ g, RecordLegal bits d (.bare b) g := fun g => by
      simp [RecordLegal, present, cmask, kid]
    simp [legal, sblk, calloc, hrecord]
  | full b m k0 k1 k2 k3 k4 k5 k6 k7 =>
    simp only [← recordLegal_iff, Fin.forall_fin_succ]
    simp [legal, sblk, calloc, cmask, kid]
    have hdepth : d < 10 → d ≤ 10 := Nat.le_of_lt
    tauto

theorem Node.legal_empty {bits d : Nat} (hd : d ≤ 10) : Node.empty.legal bits d = true := by
  simp [Node.empty, Node.legal, blockLegal, hd]

theorem Node.legal_kidOrEmpty {bits d : Nat} {n : Node} (h : n.legal bits d = true) (hd : d < 10)
    (g : Fin 8) : (n.kidOrEmpty g).legal bits (d + 1) = true := by
  cases hp : n.present g with
  | true => rw [kidOrEmpty_of_present hp]; exact legal_kid h hp
  | false => rw [kidOrEmpty_of_absent hp]; exact legal_empty hd

/-- A new slot block that is legal leaves a node legal. -/
theorem Node.legal_setSblk {bits d : Nat} {n : Node} (h : n.legal bits d = true) {b : Option SlotBlock}
    (hb : blockLegal bits b = true) : (n.setSblk b).legal bits d = true := by
  rw [legal_iff] at h ⊢
  obtain ⟨hd, -, hmask, hrecords⟩ := h
  refine ⟨hd, by rwa [sblk_setSblk], by simpa using hmask, fun g => ?_⟩
  simpa [RecordLegal] using hrecords g

/-! ### The writing walks keep a trie legal -/

theorem Node.legal_storeRoute {bits d : Nat} {n : Node} (h : n.legal bits d = true) {s : Fin 15}
    (hs : s.val ≤ 6) {p : Payload} (hp : payloadFits bits p = true) :
    (n.storeRoute s p).node.legal bits d = true := by
  have hblock := blockLegal_of_legal h
  cases hb : n.sblk with
  | none =>
    simp only [storeRoute, hb]
    exact legal_setSblk h (blockLegal_store (blockLegal_fresh bits) hs hp)
  | some b =>
    rw [hb] at hblock
    simp only [storeRoute, hb]
    exact legal_setSblk h (blockLegal_store hblock hs hp)

@[simp] theorem sblk_insertFrom_succ (a : Key) (s : Fin 15) (p : Payload) (rem d : Nat) (n : Node) :
    (insertFrom a s p (rem + 1) d n).node.sblk = n.sblk := by simp [insertFrom]

/-- ADD's descent makes nodes above depth 10 only, each with the child it descends into (R110). -/
theorem legal_insertFrom {bits : Nat} (a : Key) {s : Fin 15} (hs : s.val ≤ 6) {p : Payload}
    (hp : payloadFits bits p = true) {rem d : Nat} (hd : d + rem ≤ 10) {n : Node}
    (h : n.legal bits d = true) : (insertFrom a s p rem d n).node.legal bits d = true := by
  induction rem generalizing d n with
  | zero => exact Node.legal_storeRoute h hs hp
  | succ rem ih =>
    have hkid := ih (d := d + 1) (by omega) (Node.legal_kidOrEmpty h (by omega) (group a d))
    obtain ⟨-, hblock, -, hrecords⟩ := (Node.legal_iff ..).1 h
    refine (Node.legal_iff ..).2 ⟨by omega, by rwa [sblk_insertFrom_succ], fun _ => ⟨by omega, ?_⟩,
      fun g => ?_⟩
    · rw [Ne, Node.cmask_eq_zero_iff]
      intro hnone
      simpa [insertFrom_succ_present] using hnone (group a d)
    · rw [RecordLegal, insertFrom_succ_present, insertFrom_succ_kid]
      by_cases hg : g = group a d
      · simpa [hg] using hkid
      · simpa [hg, RecordLegal] using hrecords g

/-- Writing a legal node back at the end of a walk. -/
theorem legal_replaceFrom {bits : Nat} {a : Key} {m new : Node} {rem d : Nat} {n : Node}
    (h : n.legal bits d = true) (hm : findFrom a rem d n = some m)
    (hnew : new.legal bits (d + rem) = true) : (replaceFrom a new rem d n).legal bits d = true := by
  induction rem generalizing d n with
  | zero => exact hnew
  | succ rem ih =>
    rw [findFrom_succ, Option.ite_none_right_eq_some] at hm
    obtain ⟨hpresent, hm⟩ := hm
    have hkid := ih (Node.legal_kid h hpresent) hm (by rwa [Nat.add_right_comm])
    obtain ⟨hd, hblock, hmask, hrecords⟩ := (Node.legal_iff ..).1 h
    refine (Node.legal_iff ..).2 ⟨hd, by simpa [replaceFrom] using hblock,
      by simpa [replaceFrom] using hmask, fun g => ?_⟩
    rw [RecordLegal, replaceFrom_succ_present, replaceFrom_succ _ _ _ _ _ hpresent]
    by_cases hg : g = group a d
    · simpa [hg, hpresent] using hkid
    · simpa [hg, RecordLegal] using hrecords g

/-- A record that the pass leaves: none, the swept child, or what lay outside the trie (R140). -/
theorem Node.kid_sweep_cases (n : Node) (g : Fin 8) :
    n.sweep.node.kid g = .empty ∨
      n.sweep.node.kid g = if n.present g then (n.kid g).sweep.node else n.kid g := by
  cases n with
  | bare b =>
    rw [Node.sweep]
    obtain ⟨-, h⟩ | ⟨-, h⟩ := sweepBare_cases b <;> rw [h] <;> exact .inl rfl
  | full b m k0 k1 k2 k3 k4 k5 k6 k7 =>
    rw [Node.sweep]
    obtain ⟨-, -, h⟩ | ⟨-, -, h⟩ | ⟨-, h⟩ := finishSweep_cases b _ _ _ _ _ _ _ _ _ _ _
    · rw [h]; exact .inl rfl
    · rw [h]; exact .inl rfl
    · rw [h]
      right
      fin_cases g <;> rfl

/-- The pass leaves no stale record: a child it prunes is the empty node (R15, R140). -/
theorem Node.kid_sweep_of_absent {n : Node} {g : Fin 8} (hrecord : n.present g = false → n.kid g = .empty)
    (h : n.sweep.node.present g = false) : n.sweep.node.kid g = .empty := by
  obtain hkid | hkid := n.kid_sweep_cases g
  · exact hkid
  · rw [present_sweep, Bool.not_eq_false', dead_kidOrEmpty] at h
    rw [hkid]
    cases hp : n.present g with
    | true =>
      rw [hp, Bool.not_true, Bool.false_or, sweep_dead] at h
      exact h
    | false => exact hrecord hp

theorem Node.legal_sweep {bits d : Nat} {n : Node} (h : n.legal bits d = true) :
    n.sweep.node.legal bits d = true := by
  induction n using kids_induction generalizing d with
  | empty => exact h
  | step n ih =>
    obtain ⟨hd, hblock, hmask, hrecords⟩ := (legal_iff ..).1 h
    obtain ⟨-, hsweep⟩ | ⟨-, hsweep⟩ | ⟨n', hsweep, hn, hn', hmask', hblk⟩ := n.sweep_cases
    · rw [hsweep]; exact legal_empty hd
    · rw [hsweep]; simp [legal, hd, hblock]
    · have hnode : n.sweep.node = n' := by rw [hsweep]
      rw [← hnode] at hmask' hblk
      refine (legal_iff ..).2 ⟨hd, by rwa [hblk], fun _ => ⟨(hmask hn).1, hmask'⟩, fun g => ?_⟩
      unfold RecordLegal
      split
      · next hp =>
        rw [← kidOrEmpty_of_present hp, kidOrEmpty_sweep]
        exact ih g (legal_kidOrEmpty h (hmask hn).1 g)
      · next hp =>
        refine kid_sweep_of_absent (fun habsent => ?_) (Bool.not_eq_true _ ▸ hp)
        simpa [RecordLegal, habsent] using hrecords g

theorem Node.legal_insert {bits : Nat} {root : Node} (h : root.legal bits 0 = true) (a : Key) {c : Nat}
    (hc : c ≤ 32) {p : Payload} (hp : payloadFits bits p = true) :
    (root.insert a c p).node.legal bits 0 = true :=
  legal_insertFrom a (boundary_slot_le a c) hp (by rw [boundary_depth]; omega) h

theorem Node.legal_remove {bits : Nat} {root : Node} (h : root.legal bits 0 = true) (a : Key) (c : Nat) :
    ((root.remove a c).getD root).legal bits 0 = true := by
  obtain ⟨hnone, -⟩ | ⟨n, b, hfind, hb, -, -, hsome⟩ := root.remove_cases a c
  · rwa [hnone]
  · have hn : n.legal bits (0 + c / 3) = true := legal_findFrom h hfind
    have hblock := blockLegal_of_legal hn
    rw [hb] at hblock
    rw [hsome]
    exact legal_replaceFrom h hfind (legal_setSblk hn (blockLegal_vacate hblock _))

/-! ### Every step keeps the trie invariants -/

theorem Table.legal_iff (bits : Nat) (T : Table) :
    T.legal bits = true ↔ T.root.legal bits 0 = true ∧ (T.live = false → T.root = .empty) := by
  rw [legal, Bool.and_eq_true, Bool.or_eq_true, Node.isEmpty_iff]
  cases T.live <;> simp

theorem State.trieInv_iff (s : State) :
    s.trieInv = true ↔ ∀ T ∈ s.tables, T.legal s.cfg.payloadBits = true := List.all_eq_true

theorem TableUpdate.legal {bits : Nat} {s : State} {L : Latch} {T T' : Table} {i : Instr} {uc us : Nat}
    (h : TableUpdate s L T i T' uc us) (hp : payloadFits bits L.payload = true)
    (hT : T.legal bits = true) : T'.legal bits = true := by
  rw [Table.legal_iff] at hT ⊢
  obtain ⟨hroot, hreleased⟩ := hT
  have hnotReleased (hlive : T.live = true) {P : Prop} (hl : T.live = false) : P :=
    absurd (hlive.symm.trans hl) nofun
  cases h with
  | add hlive hc _ => exact ⟨Node.legal_insert hroot _ hc hp, hnotReleased hlive⟩
  | delete hlive => exact ⟨Node.legal_remove hroot _ _, hnotReleased hlive⟩
  | cleanup hlive => exact ⟨Node.legal_sweep hroot, hnotReleased hlive⟩
  | clear | release => exact ⟨Node.legal_empty (Nat.zero_le 10), fun _ => rfl⟩
  | enumStart | enumNext | releaseReleased => exact ⟨hroot, hreleased⟩
  | create => exact ⟨hroot, nofun⟩

theorem Ending.trieInv {s s' : State} {L : Latch} {i : Instr} (h : Ending s L i s')
    (hinv : s.trieInv = true) (hp : payloadFits s.cfg.payloadBits L.payload = true) :
    s'.trieInv = true := by
  cases h with
  | error | answer => exact hinv
  | update hT hu hr =>
    rw [State.trieInv_iff] at hinv ⊢
    intro T₁ hmem
    obtain hold | rfl := List.mem_or_eq_of_mem_set hmem
    · exact hinv T₁ hold
    · exact hu.legal hp (hinv _ (List.mem_of_getElem? hT))

theorem trieInv_of_tables {s s' : State} (hcfg : s'.cfg = s.cfg) (htables : s'.tables = s.tables)
    (h : s.trieInv = true) : s'.trieInv = true := by
  rwa [State.trieInv, hcfg, htables]

theorem Table.legal_fresh (bits : Nat) : Table.fresh.legal bits = true :=
  (legal_iff ..).2 ⟨Node.legal_empty (Nat.zero_le 10), fun _ => rfl⟩

theorem State.trieInv_resetWith (cfg : Config) (n : Nat) : (State.resetWith cfg n).trieInv = true := by
  rw [trieInv_iff]
  intro T hT
  obtain ⟨-, rfl⟩ := List.mem_replicate.1 hT
  exact Table.legal_fresh _

/-- Settles O55: of the events only a command changes a trie, and each update of a table keeps it legal. -/
theorem stepKeepsTrieInvariants : Obligations.StepKeepsTrieInvariants := by
  intro s s' hinv hlatch hstep
  obtain ⟨rest, hturn⟩ := step_turn hstep
  cases hturn with
  | idle | illegal => exact hinv
  | access h =>
    have hsame := hostAccess_sameBlock h
    exact trieInv_of_tables (s := s) hsame.cfg hsame.tables hinv
  | @command L i _ hL h =>
    rw [show s.latch = some L from hL] at hlatch
    exact h.trieInv hinv hlatch
  | reset => exact State.trieInv_resetWith s.cfg s.numTables

end Sys2Proof.Machine
end

section
/-! The pool accounting (R23): the blocks that each walk adds to a trie are the ones it counts, the tables
together own what the pools count, and every step keeps it so. -/

namespace Sys2Proof.Machine

/-! ### What the writing walks do to the blocks owned (R111, R120) -/

theorem sum_kids_of_change {f f' : Fin 8 → Nat} {g : Fin 8} {x : Nat} (hg : f g = x + f' g)
    (hother : ∀ h, h ≠ g → f h = f' h) : ∑ h, f h = x + ∑ h, f' h := by
  have hrest : ∑ h ∈ Finset.univ.erase g, f h = ∑ h ∈ Finset.univ.erase g, f' h :=
    Finset.sum_congr rfl fun h hh => hother h (Finset.ne_of_mem_erase hh)
  rw [← Finset.add_sum_erase _ f (Finset.mem_univ g), ← Finset.add_sum_erase _ f' (Finset.mem_univ g),
    hrest, hg, Nat.add_assoc]

section
variable (a : Key) (s : Fin 15) (p : Payload)

/-- ADD's descent adds the child blocks that it allocates. -/
theorem ownedC_insertFrom (rem d : Nat) (n : Node) :
    (insertFrom a s p rem d n).node.ownedC = (insertFrom a s p rem d n).nc + n.ownedC := by
  induction rem generalizing d n with
  | zero =>
    obtain ⟨hnc, -⟩ := n.counts_storeRoute s p
    have hcalloc : (n.storeRoute s p).node.calloc = n.calloc := by
      cases hb : n.sblk <;> simp [Node.storeRoute, hb]
    rw [insertFrom_zero, hnc, Nat.zero_add, Node.ownedC_eq, n.ownedC_eq, hcalloc]
    simp only [Node.kidOrEmpty_storeRoute]
  | succ rem ih =>
    obtain ⟨hnc, -, -⟩ := insertFrom_succ_counts a s p rem d n
    have hkids := sum_kids_of_change (g := group a d)
      (f := fun g => ((insertFrom a s p (rem + 1) d n).node.kidOrEmpty g).ownedC)
      (f' := fun g => (n.kidOrEmpty g).ownedC)
      (by simp only [kidOrEmpty_insertFrom, if_true]; exact ih (d + 1) _)
      (fun g hg => by simp only [kidOrEmpty_insertFrom, if_neg hg])
    rw [Node.ownedC_eq, n.ownedC_eq, hkids, hnc, insertFrom_succ_calloc]
    cases n.calloc <;> simp <;> omega

/-- ADD's descent adds the slot blocks that it allocates. -/
theorem ownedS_insertFrom (rem d : Nat) (n : Node) :
    (insertFrom a s p rem d n).node.ownedS = (insertFrom a s p rem d n).ns + n.ownedS := by
  induction rem generalizing d n with
  | zero =>
    have hblk : slotBlocks (n.storeRoute s p).node.sblk = (n.storeRoute s p).ns + slotBlocks n.sblk := by
      cases hb : n.sblk <;> simp [Node.storeRoute, hb, slotBlocks]
    rw [insertFrom_zero, Node.ownedS_eq, n.ownedS_eq, hblk, Nat.add_assoc]
    simp only [Node.kidOrEmpty_storeRoute]
  | succ rem ih =>
    obtain ⟨-, hns, -⟩ := insertFrom_succ_counts a s p rem d n
    have hkids := sum_kids_of_change (g := group a d)
      (f := fun g => ((insertFrom a s p (rem + 1) d n).node.kidOrEmpty g).ownedS)
      (f' := fun g => (n.kidOrEmpty g).ownedS)
      (by simp only [kidOrEmpty_insertFrom, if_true]; exact ih (d + 1) _)
      (fun g hg => by simp only [kidOrEmpty_insertFrom, if_neg hg])
    rw [Node.ownedS_eq, n.ownedS_eq, hkids, hns, sblk_insertFrom_succ, Nat.add_left_comm]

end

/-- Writing back a node that owns as many blocks changes no count: `own` counts what a subtree owns and
`here` the part of its top node. -/
theorem own_replaceFrom {own here : Node → Nat}
    (hown : ∀ n, own n = here n + ∑ g, own (n.kidOrEmpty g))
    (hhere : ∀ (n k : Node) (g : Fin 8), here (n.setKid g k) = here n) {a : Key} {m new : Node}
    {rem d : Nat} {n : Node} (hm : findFrom a rem d n = some m) (hnew : own new = own m) :
    own (replaceFrom a new rem d n) = own n := by
  induction rem generalizing d n with
  | zero => cases hm; exact hnew
  | succ rem ih =>
    rw [findFrom_succ, Option.ite_none_right_eq_some] at hm
    obtain ⟨hpresent, hm⟩ := hm
    have hkid : ∀ g, own ((replaceFrom a new (rem + 1) d n).kidOrEmpty g) = own (n.kidOrEmpty g) := by
      intro g
      rw [kidOrEmpty_replaceFrom hpresent]
      split
      · next hg => rw [hg, Node.kidOrEmpty_of_present hpresent, ih hm]
      · rfl
    rw [hown, hown n, Finset.sum_congr rfl fun g _ => hkid g, replaceFrom, hhere]

/-- DELETE frees no block (R120). -/
theorem Node.owned_remove (root : Node) (a : Key) (c : Nat) :
    ((root.remove a c).getD root).ownedC = root.ownedC ∧
      ((root.remove a c).getD root).ownedS = root.ownedS := by
  obtain ⟨hnone, -⟩ | ⟨n, b, hfind, hb, -, -, hsome⟩ := root.remove_cases a c
  · rw [hnone]; exact ⟨rfl, rfl⟩
  · rw [hsome]
    refine ⟨own_replaceFrom ownedC_eq (fun n k g => by rw [calloc_setKid]) hfind ?_,
      own_replaceFrom ownedS_eq (fun n k g => by rw [sblk_setKid]) hfind ?_⟩
    · rw [ownedC_eq, n.ownedC_eq, calloc_setSblk]
      simp only [kidOrEmpty_setSblk]
    · rw [ownedS_eq, n.ownedS_eq, sblk_setSblk, hb]
      simp only [kidOrEmpty_setSblk]
      rfl

/-! ### Every step keeps the accounting -/

theorem State.poolInv_iff (s : State) :
    s.poolInv = true ↔ (s.usedC = s.ownedC ∧ s.usedC ≤ s.cfg.cblockCap) ∧
      s.usedS = s.ownedS ∧ s.usedS ≤ s.cfg.sblockCap := by
  simp only [poolInv, Bool.and_eq_true, decide_eq_true_eq]
  tauto

theorem State.short_eq_false_iff (s : State) (need : Nat × Nat) :
    s.short need = false ↔ need.1 ≤ s.freeC ∧ need.2 ≤ s.freeS := by
  simp [short]

/-- One table replaced in a sum over all of them. -/
theorem sum_map_set {α : Type} (f : α → Nat) {l : List α} {t : Nat} {x : α} (h : l[t]? = some x) (y : α) :
    ((l.set t y).map f).sum + f x = (l.map f).sum + f y := by
  induction l generalizing t with
  | nil => cases h
  | cons z l ih =>
    cases t with
    | zero =>
      obtain rfl : z = x := Option.some.inj h
      simp only [List.set_cons_zero, List.map_cons, List.sum_cons]
      omega
    | succ t =>
      have hrest := ih (t := t) h
      simp only [List.set_cons_succ, List.map_cons, List.sum_cons]
      omega

/-- A pool count `used`, of which the table owned `own`, is now `used'` with `own'` of it: the change is the
table's, and the count stays within the capacity. -/
def Accounted (cap used own used' own' : Nat) : Prop := used' + own = used + own' ∧ used' ≤ cap

theorem accounted_refl {cap used : Nat} (own : Nat) (h : used ≤ cap) : Accounted cap used own used own :=
  ⟨rfl, h⟩

theorem accounted_add {cap used x : Nat} (own : Nat) (h : x ≤ cap - used) (hcap : used ≤ cap) :
    Accounted cap used own (used + x) (x + own) := by
  unfold Accounted; omega

theorem accounted_free {cap used x own own' : Nat} (hown : own ≤ used) (hcap : used ≤ cap)
    (h : x + own' = own) : Accounted cap used own (used - x) own' := by
  unfold Accounted; omega

section
variable {s : State} {L : Latch} {t : Nat} {T T' : Table} {i : Instr} {uc us : Nat}

/-- Each update of a table allocates and frees the blocks by which its trie grows and shrinks. -/
theorem TableUpdate.accounted (h : TableUpdate s L T i T' uc us) (hpool : s.poolInv = true)
    (hT : s.tables[t]? = some T) (hlegal : T.root.legal s.cfg.payloadBits 0 = true) :
    Accounted s.cfg.cblockCap s.usedC T.root.ownedC uc T'.root.ownedC ∧
      Accounted s.cfg.sblockCap s.usedS T.root.ownedS us T'.root.ownedS := by
  obtain ⟨hownC, hownS⟩ := State.owned_le_used hpool hT
  obtain ⟨⟨-, hcapC⟩, -, hcapS⟩ := s.poolInv_iff.1 hpool
  cases h with
  | add _ _ hroom =>
    rw [Node.need_eq_insert hlegal _ _ L.payload, State.short_eq_false_iff] at hroom
    obtain ⟨hroomC, hroomS⟩ := hroom
    simp only [Table.mutated, Node.insert, ownedC_insertFrom, ownedS_insertFrom]
    exact ⟨accounted_add _ hroomC hcapC, accounted_add _ hroomS hcapS⟩
  | @delete c =>
    obtain ⟨hC, hS⟩ := T.root.owned_remove L.addr c
    simp only [Table.mutated, hC, hS]
    exact ⟨accounted_refl _ hcapC, accounted_refl _ hcapS⟩
  | cleanup =>
    exact ⟨accounted_free hownC hcapC T.root.freedC_sweep, accounted_free hownS hcapS T.root.freedS_sweep⟩
  | clear | release => exact ⟨accounted_free hownC hcapC rfl, accounted_free hownS hcapS rfl⟩
  | enumStart | enumNext | releaseReleased | create =>
    exact ⟨accounted_refl _ hcapC, accounted_refl _ hcapS⟩

end

theorem Ending.poolInv {s s' : State} {L : Latch} {i : Instr} (h : Ending s L i s')
    (htrie : s.trieInv = true) (hpool : s.poolInv = true) : s'.poolInv = true := by
  cases h with
  | error | answer => exact hpool
  | @update T T' uc us r hT hu hr =>
    obtain ⟨⟨hC, hcapC⟩, hS, hcapS⟩ := hu.accounted hpool hT (State.legal_of_trieInv htrie hT)
    obtain ⟨⟨husedC, -⟩, husedS, -⟩ := s.poolInv_iff.1 hpool
    have hsumC := sum_map_set (fun T => T.root.ownedC) hT T'
    have hsumS := sum_map_set (fun T => T.root.ownedS) hT T'
    rw [State.ownedC] at husedC
    rw [State.ownedS] at husedS
    refine (State.poolInv_iff _).2 ⟨⟨?_, hcapC⟩, ?_, hcapS⟩
    · change uc = ((s.tables.set i.table T').map fun T => T.root.ownedC).sum
      omega
    · change us = ((s.tables.set i.table T').map fun T => T.root.ownedS).sum
      omega

theorem State.poolInv_resetWith (cfg : Config) (n : Nat) : (State.resetWith cfg n).poolInv = true := by
  have hown : Table.fresh.root.ownedC = 0 ∧ Table.fresh.root.ownedS = 0 := ⟨rfl, rfl⟩
  rw [poolInv_iff]
  simp [resetWith, ownedC, ownedS, hown]

/-- Settles O56: a host access leaves the tables and the counts, reset empties both, and an update of a table
moves the counts by the blocks that its trie gains or loses. -/
theorem stepKeepsPoolAccounting : Obligations.StepKeepsPoolAccounting := by
  intro s s' htrie hpool hstep
  obtain ⟨rest, hturn⟩ := step_turn hstep
  cases hturn with
  | idle | illegal => exact hpool
  | access h =>
    have hsame := hostAccess_sameBlock h
    rw [State.poolInv_iff, State.ownedC, State.ownedS, hsame.cfg, hsame.tables, hsame.usedC, hsame.usedS]
    exact s.poolInv_iff.1 hpool
  | command _ h => exact h.poolInv htrie hpool
  | reset => exact State.poolInv_resetWith s.cfg s.numTables

end Sys2Proof.Machine
end

section
/-! The enumeration (R155, R157): the traversal through own slots and children, which triples it holds, and
that it holds each once. -/

namespace Sys2Proof.Machine

/-! ### The order of the traversal (R155) -/

@[simp] theorem Node.entries_empty (d p : Nat) : Node.empty.entries d p = [] := rfl

theorem ownEntries_eq (n : Node) (d p : Nat) : ownEntries n.sblk d p = ownTriples n d p := by
  have hslots : allSlots = List.finRange 15 := by decide
  unfold ownTriples
  cases hb : n.sblk with
  | none => simp [ownEntries, Node.route_eq, hb]
  | some b =>
    rw [ownEntries, hslots]
    refine List.filterMap_congr fun σ _ => ?_
    cases hocc : b.occupied σ <;> simp [Node.route_eq, hb, hocc]

/-- An absent child reads as the empty node, which enumerates nothing. -/
theorem childTriples_eq (n : Node) (d p : Nat) :
    childTriples n d p =
      (List.finRange 8).flatMap fun g => (n.kidOrEmpty g).entries (d + 1) (8 * p + g.val) := by
  unfold childTriples Node.kidOrEmpty
  refine congrArg (List.flatMap · _) (funext fun g => ?_)
  rw [apply_ite (Node.entries · (d + 1) (8 * p + g.val)), Node.entries_empty]

theorem childTriples_bare (b : Option SlotBlock) (d p : Nat) : childTriples (.bare b) d p = [] := by
  rw [childTriples_eq]
  simp [Node.kidOrEmpty_bare]

theorem childTriples_full (b : Option SlotBlock) (m : BitVec 8) (k0 k1 k2 k3 k4 k5 k6 k7 : Node)
    (d p : Nat) :
    childTriples (.full b m k0 k1 k2 k3 k4 k5 k6 k7) d p =
      listIfPresent m 0 (k0.entries (d + 1) (8 * p)) ++
        listIfPresent m 1 (k1.entries (d + 1) (8 * p + 1)) ++
        listIfPresent m 2 (k2.entries (d + 1) (8 * p + 2)) ++
        listIfPresent m 3 (k3.entries (d + 1) (8 * p + 3)) ++
        listIfPresent m 4 (k4.entries (d + 1) (8 * p + 4)) ++
        listIfPresent m 5 (k5.entries (d + 1) (8 * p + 5)) ++
        listIfPresent m 6 (k6.entries (d + 1) (8 * p + 6)) ++
        listIfPresent m 7 (k7.entries (d + 1) (8 * p + 7)) := by
  have hgroups : List.finRange 8 = [0, 1, 2, 3, 4, 5, 6, 7] := by decide
  simp only [childTriples, hgroups, List.flatMap_cons, List.flatMap_nil, List.append_nil,
    ← List.append_assoc]
  rfl

theorem Node.entries_eq (n : Node) (d p : Nat) :
    n.entries d p = ownTriples n d p ++ childTriples n d p := by
  rw [← ownEntries_eq]
  cases n with
  | bare b => rw [childTriples_bare, List.append_nil]; rfl
  | full => simp only [childTriples_full, Node.entries, Node.sblk, List.append_assoc]

/-! ### The triples it holds -/

/-- The triple names a stored route in the subtree of the node n at depth d with path number p: a canonical
form of length at most 32 that passes n, and the payload that its boundary's slot holds there. -/
def StoredBelow (n : Node) (d p : Nat) (e : Entry) : Prop :=
  e.cidr ≤ 32 ∧ maskKey e.addr e.cidr = e.addr ∧ d ≤ e.cidr / 3 ∧ leadingBits e.addr (3 * d) = p ∧
    routeFrom e.addr (e.cidr / 3 - d) d n (boundary e.addr e.cidr).slot = some e.payload

theorem mem_ownTriples {n : Node} {d p : Nat} {e : Entry} :
    e ∈ ownTriples n d p ↔ ∃ σ q, n.route σ = some q ∧ ⟨prefixAddr d p σ, prefixLen d σ, q⟩ = e := by
  simp [ownTriples]

section
variable {bits d p : Nat} {n : Node} (hlegal : n.legal bits d = true) (hp : p < 8 ^ d)
include hlegal

theorem Node.slot_le_six_of_route {s : Fin 15} {q : Payload} (h : n.route s = some q) : s.val ≤ 6 := by
  by_contra hs
  cases (route_k3_of_legal hlegal (by omega)).symm.trans h

include hp

/-- The node's own triples are those stored in its subtree whose boundary lies at its depth. -/
theorem mem_ownTriples_iff {e : Entry} :
    e ∈ ownTriples n d p ↔ e.cidr / 3 = d ∧ StoredBelow n d p e := by
  have hd := Node.depth_le_of_legal hlegal
  rw [mem_ownTriples]
  constructor
  · rintro ⟨σ, q, hroute, rfl⟩
    have hσ := Node.slot_le_six_of_route hlegal hroute
    have hk := slotK_le_two hσ
    have hdepth : prefixLen d σ / 3 = d := by unfold prefixLen; omega
    refine ⟨hdepth, by unfold prefixLen; dsimp only; omega, maskKey_prefixAddr hd hp hσ, hdepth.ge,
      leadingBits_prefixAddr_path hd hp hσ, ?_⟩
    dsimp only
    rw [boundary_prefixAddr_slot hd hp hσ, hdepth, Nat.sub_self, routeFrom_zero, hroute]
  · obtain ⟨a, c, q⟩ := e
    rintro ⟨rfl, hc, hcanonical, -, rfl, hroute⟩
    dsimp only at hc hcanonical hroute
    rw [Nat.sub_self, routeFrom_zero] at hroute
    have haddr := prefixAddr_boundary a hc
    rw [Nat.shiftRight_eq_div_pow, ← leadingBits, hcanonical] at haddr
    exact ⟨_, q, hroute, by rw [haddr, prefixLen_boundary]⟩

end

/-- A triple is stored below a child of the node iff it is stored below the node and passes the child. -/
theorem storedBelow_kid_iff {n : Node} {d p : Nat} (hd : d ≤ 9) {e : Entry} {g : Fin 8} :
    StoredBelow (n.kidOrEmpty g) (d + 1) (8 * p + g.val) e ↔
      d < e.cidr / 3 ∧ group e.addr d = g ∧ StoredBelow n d p e := by
  have hpath : leadingBits e.addr (3 * (d + 1)) = 8 * p + g.val ↔
      group e.addr d = g ∧ leadingBits e.addr (3 * d) = p := by
    rw [leadingBits_succ_group hd, Fin.ext_iff]
    omega
  have hroute (hlt : d < e.cidr / 3) : routeFrom e.addr (e.cidr / 3 - d) d n =
      routeFrom e.addr (e.cidr / 3 - (d + 1)) (d + 1) (n.kidOrEmpty (group e.addr d)) := by
    obtain ⟨r, hr⟩ := Nat.exists_eq_add_of_lt hlt
    have hsteps : e.cidr / 3 - d = r + 1 ∧ e.cidr / 3 - (d + 1) = r := by omega
    rw [hsteps.1, hsteps.2]
    exact funext (routeFrom_succ e.addr r d n)
  unfold StoredBelow
  rw [hpath]
  constructor
  · rintro ⟨hc, hcanonical, hlt, ⟨rfl, hp⟩, hstored⟩
    exact ⟨hlt, rfl, hc, hcanonical, Nat.le_of_lt hlt, hp, by rw [hroute hlt]; exact hstored⟩
  · rintro ⟨hlt, rfl, hc, hcanonical, -, hp, hstored⟩
    exact ⟨hc, hcanonical, hlt, ⟨rfl, hp⟩, by rw [← hroute hlt]; exact hstored⟩

theorem mem_childTriples {n : Node} {d p : Nat} {e : Entry} :
    e ∈ childTriples n d p ↔ ∃ g, e ∈ (n.kidOrEmpty g).entries (d + 1) (8 * p + g.val) := by
  simp [childTriples_eq]

theorem childTriples_of_depth_ten {bits p : Nat} {n : Node} (h : n.legal bits 10 = true) :
    childTriples n 10 p = [] := by
  have habsent : ∀ g, n.kidOrEmpty g = .empty := fun g => by
    cases hp : n.present g with
    | true => exact absurd (Node.depth_lt_of_present h hp) (Nat.lt_irrefl 10)
    | false => exact Node.kidOrEmpty_of_absent hp
  rw [childTriples_eq]
  simp [habsent]

/-- The traversal of a legal subtree holds exactly the triples stored below it. -/
theorem Node.mem_entries_iff {bits d p : Nat} {n : Node} (hlegal : n.legal bits d = true)
    (hp : p < 8 ^ d) {e : Entry} : e ∈ n.entries d p ↔ StoredBelow n d p e := by
  induction n using kids_induction generalizing d p with
  | empty => simp [StoredBelow]
  | step n ih =>
    have hchild : e ∈ childTriples n d p ↔ d < e.cidr / 3 ∧ StoredBelow n d p e := by
      obtain hd | rfl := (depth_le_of_legal hlegal).lt_or_eq
      · rw [mem_childTriples]
        have hkid (g : Fin 8) : e ∈ (n.kidOrEmpty g).entries (d + 1) (8 * p + g.val) ↔
            d < e.cidr / 3 ∧ group e.addr d = g ∧ StoredBelow n d p e := by
          rw [ih g (legal_kidOrEmpty hlegal hd g) (by rw [Nat.pow_succ]; omega),
            storedBelow_kid_iff (by omega)]
        simp [hkid]
      · rw [childTriples_of_depth_ten hlegal]
        refine iff_of_false List.not_mem_nil fun ⟨hlt, hc, _⟩ => ?_
        omega
    rw [entries_eq, List.mem_append, mem_ownTriples_iff hlegal hp, hchild, ← or_and_right,
      and_iff_right_iff_imp]
    rintro ⟨-, -, hle, -⟩
    omega

/-- The enumeration of a legal table holds exactly the stored routes. -/
theorem Node.mem_enumAll_iff {bits : Nat} {root : Node} (hlegal : root.legal bits 0 = true) {e : Entry} :
    e ∈ root.enumAll ↔ e.cidr ≤ 32 ∧ maskKey e.addr e.cidr = e.addr ∧
      storedAt root e.addr e.cidr = some e.payload := by
  have hpath : leadingBits e.addr 0 = 0 := Nat.lt_one_iff.1 (leadingBits_lt e.addr (Nat.zero_le 32))
  rw [enumAll, mem_entries_iff hlegal (by decide), StoredBelow, storedAt_eq_routeAt, routeAt_eq_routeFrom]
  simp [hpath]

/-! ### Each triple once -/

/-- Two triples that name different addresses or different lengths. -/
def NamesOther (e e' : Entry) : Prop := (e.addr, e.cidr) ≠ (e'.addr, e'.cidr)

theorem namesOther_of_cidr {e e' : Entry} (h : e.cidr ≠ e'.cidr) : NamesOther e e' :=
  fun heq => h (congrArg Prod.snd heq)

theorem namesOther_of_addr {e e' : Entry} (h : e.addr ≠ e'.addr) : NamesOther e e' :=
  fun heq => h (congrArg Prod.fst heq)

section
variable {bits d p : Nat} {n : Node} (hlegal : n.legal bits d = true) (hp : p < 8 ^ d)
include hlegal hp

theorem pairwise_ownTriples : (ownTriples n d p).Pairwise NamesOther := by
  have hd := Node.depth_le_of_legal hlegal
  rw [ownTriples, List.pairwise_filterMap]
  refine (List.nodup_finRange 15).imp fun {σ τ} hne e he e' he' heq => hne ?_
  obtain ⟨q, hq, rfl⟩ := Option.map_eq_some_iff.1 he
  obtain ⟨q', hq', rfl⟩ := Option.map_eq_some_iff.1 he'
  obtain ⟨haddr, hlen⟩ := Prod.mk.inj heq
  dsimp only at haddr hlen
  rw [← boundary_prefixAddr_slot hd hp (Node.slot_le_six_of_route hlegal hq), haddr, hlen,
    boundary_prefixAddr_slot hd hp (Node.slot_le_six_of_route hlegal hq')]

end

/-- Own triples name lengths that end in the node, those of the children longer ones, and those of different
children take different paths. -/
theorem Node.pairwise_entries {bits d p : Nat} {n : Node} (hlegal : n.legal bits d = true)
    (hp : p < 8 ^ d) : (n.entries d p).Pairwise NamesOther := by
  induction n using kids_induction generalizing d p with
  | empty => exact List.Pairwise.nil
  | step n ih =>
    rw [entries_eq]
    obtain hd | rfl := (depth_le_of_legal hlegal).lt_or_eq
    · have hkid := legal_kidOrEmpty hlegal hd
      have hpath (g : Fin 8) : 8 * p + g.val < 8 ^ (d + 1) := by rw [Nat.pow_succ]; omega
      have hbelow {g : Fin 8} {e : Entry} (he : e ∈ (n.kidOrEmpty g).entries (d + 1) (8 * p + g.val)) :
          d < e.cidr / 3 ∧ group e.addr d = g ∧ StoredBelow n d p e :=
        (storedBelow_kid_iff (by omega)).1 ((mem_entries_iff (hkid g) (hpath g)).1 he)
      refine List.pairwise_append.2 ⟨pairwise_ownTriples hlegal hp, ?_, fun e he e' he' => ?_⟩
      · rw [childTriples_eq, List.pairwise_flatMap]
        refine ⟨fun g _ => ih g (hkid g) (hpath g), ?_⟩
        refine (List.nodup_finRange 8).imp fun {g g'} hne e he e' he' => ?_
        obtain ⟨-, rfl, -⟩ := hbelow he
        obtain ⟨-, rfl, -⟩ := hbelow he'
        exact namesOther_of_addr fun haddr => hne (by rw [haddr])
      · obtain ⟨hown, -⟩ := (mem_ownTriples_iff hlegal hp).1 he
        obtain ⟨g, he'⟩ := mem_childTriples.1 he'
        obtain ⟨hlt, -⟩ := hbelow he'
        exact namesOther_of_cidr fun hlen => by rw [← hlen] at hlt; omega
    · rw [childTriples_of_depth_ten hlegal, List.append_nil]
      exact pairwise_ownTriples hlegal hp

/-- Settles O46: the traversal is the node's own triples and then the children's, by induction over the
children those of the stored routes, each of which names its own address and length. -/
theorem enumerationIsComplete : Obligations.EnumerationIsComplete := by
  refine ⟨fun n d p => ⟨rfl, n.entries_eq d p⟩, fun bits root hlegal =>
    ⟨fun e => Node.mem_enumAll_iff hlegal, ?_⟩⟩
  rw [List.Nodup, List.pairwise_map]
  exact Node.pairwise_entries hlegal (by decide)

/-! ### ENUM_NEXT (R157) -/

section
variable {s : State} {L : Latch} {t : Nat} {T : Table} (c : Nat) (hlatch : s.latch = some L)
  (ht : s.tables[t]? = some T) (hlive : T.live = true) (hvalid : T.ecurValid = true)
  (hk3 : T.root.hasK3 = false)
include hlatch ht hlive hvalid hk3

theorem exec_enumNext_element {e : Entry} (he : T.root.enumAll[T.ecurPos]? = some e) :
    exec (.enumNext c t) s =
      .next ((s.setTable t { T with ecurPos := T.ecurPos + 1 }).complete (Result.triple e)) := by
  have hrun : exec (.enumNext c t) s = execEnumNext c t s := rfl
  rw [hrun, execEnumNext, withLatch_some hlatch, withLiveTable_live ht hlive, hvalid, hk3, he]
  rfl

theorem exec_enumNext_end (he : T.root.enumAll[T.ecurPos]? = none) :
    exec (.enumNext c t) s = .next (s.okCompletion false 0) := by
  have hrun : exec (.enumNext c t) s = execEnumNext c t s := rfl
  rw [hrun, execEnumNext, withLatch_some hlatch, withLiveTable_live ht hlive, hvalid, hk3, he]
  rfl

end

/-- Settles O42: the element at the cursor is one of the stored routes, under its canonical form. -/
theorem enumNextReturnsElement : Obligations.EnumNextReturnsElement := by
  intro s L c t T hlatch ht hlive hvalid hlegal
  have hk3 := Node.hasK3_of_legal hlegal
  refine ⟨fun e he => ?_, fun hend => ?_⟩
  · obtain ⟨hlen, hcanonical, -⟩ := (Node.mem_enumAll_iff hlegal).1 (List.mem_of_getElem? he)
    exact ⟨hlen, hcanonical, exec_enumNext_element c hlatch ht hlive hvalid hk3 he⟩
  · exact exec_enumNext_end c hlatch ht hlive hvalid hk3 (List.getElem?_eq_none hend)

end Sys2Proof.Machine
end

section
/-! The register file in bits: payload words (R32, R35, R55), byte lanes (R53), the STATUS word (R29) and the
information registers (R36 to R38), and the invariant of the register file, which every step keeps. -/

namespace Sys2Proof.Machine

/-! ### Payloads bit by bit (R32, R35) -/

theorem getLsbD_trimPayload (bits : Nat) (p : Payload) (n : Nat) :
    (trimPayload bits p).getLsbD n = (decide (n < bits) && p.getLsbD n) := by
  by_cases hn : n < 2048
  · simp [trimPayload, hn]
  · simp [trimPayload, hn, BitVec.getLsbD_of_ge p n (Nat.not_lt.1 hn)]

theorem payloadFits_iff_bits (bits : Nat) (p : Payload) :
    payloadFits bits p = true ↔ ∀ n, bits ≤ n → p.getLsbD n = false := by
  rw [payloadFits_iff]
  constructor
  · intro h n hn
    rw [← h, getLsbD_trimPayload, decide_eq_false (Nat.not_lt.2 hn), Bool.false_and]
  · intro h
    refine BitVec.eq_of_getLsbD_eq fun n _ => ?_
    rw [getLsbD_trimPayload]
    by_cases hn : n < bits
    · simp [hn]
    · simp [h n (Nat.not_lt.1 hn)]

theorem payloadFits_trimPayload (bits : Nat) (p : Payload) : payloadFits bits (trimPayload bits p) = true := by
  rw [payloadFits_iff_bits]
  intro n hn
  rw [getLsbD_trimPayload, decide_eq_false (Nat.not_lt.2 hn), Bool.false_and]

theorem payloadFits_setPayloadWord (bits : Nat) (p : Payload) (i : Nat) (v : Word) :
    payloadFits bits (setPayloadWord bits p i v) = true := payloadFits_trimPayload _ _

theorem getLsbD_payloadWord (p : Payload) (i : Nat) {b : Nat} (hb : b < 32) :
    (payloadWord p i).getLsbD b = p.getLsbD (32 * i + b) := by
  simp [payloadWord, hb]

theorem getLsbD_wordMask (n : Nat) : (0xFFFFFFFF#2048).getLsbD n = decide (n < 32) := by
  rw [BitVec.getLsbD_ofNat, show 0xFFFFFFFF = 2 ^ 32 - 1 from rfl, Nat.testBit_two_pow_sub_one]
  by_cases hn : n < 32
  · simp [hn, hn.trans (by decide : 32 < 2048)]
  · simp [hn]

/-- The bits of word i come from the value written, all others stay, and those at or above PAYLOAD_BITS are
dropped (R32). -/
theorem getLsbD_setPayloadWord (bits : Nat) (p : Payload) (i : Nat) (v : Word) {n : Nat} (hn : n < 2048) :
    (setPayloadWord bits p i v).getLsbD n = (decide (n < bits) &&
      if 32 * i ≤ n ∧ n < 32 * i + 32 then v.getLsbD (n - 32 * i) else p.getLsbD n) := by
  rw [setPayloadWord, getLsbD_trimPayload]
  simp only [BitVec.getLsbD_or, BitVec.getLsbD_and, BitVec.getLsbD_not, BitVec.getLsbD_shiftLeft,
    BitVec.getLsbD_setWidth, getLsbD_wordMask, hn, decide_true, Bool.true_and]
  obtain hlow | hword | hhigh : n < 32 * i ∨ (32 * i ≤ n ∧ n < 32 * i + 32) ∨ 32 * i + 32 ≤ n := by omega
  · simp [hlow, Nat.not_le.2 hlow]
  · have hoff : n - 32 * i < 32 := by omega
    have hwide : n - 32 * i < 2048 := by omega
    simp [hword, Nat.not_lt.2 hword.1, hoff, hwide]
  · have hoff : ¬ n - 32 * i < 32 := by omega
    have habove : v.getLsbD (n - 32 * i) = false := BitVec.getLsbD_of_ge _ _ (Nat.not_lt.1 hoff)
    simp [Nat.not_lt.2 hhigh, hoff, habove]

theorem Config.legal_iff (cfg : Config) :
    cfg.legal = true ↔ 1 ≤ cfg.payloadBits ∧ cfg.payloadBits ≤ 2048 ∧ cfg.cblockCap < 2 ^ 32 ∧
      cfg.sblockCap < 2 ^ 32 := by
  simp only [Config.legal, Bool.and_eq_true, decide_eq_true_eq, and_assoc]

theorem payloadWords_le {cfg : Config} (h : cfg.legal = true) : payloadWords cfg ≤ 64 := by
  obtain ⟨-, hbits, -⟩ := (Config.legal_iff cfg).1 h
  unfold payloadWords
  omega

/-- Settles O17: the words of PAYLOAD_IN do not overlap, and a word of a payload that fits reads no bit at or
above PAYLOAD_BITS. -/
theorem operandRegistersReadBack : Obligations.OperandRegistersReadBack := by
  intro s v i j b hlegal hfits hi hj hb
  have hwords := payloadWords_le hlegal
  refine ⟨?_, rfl, ?_⟩
  · refine BitVec.eq_of_getLsbD_eq fun n hn => ?_
    simp only [State.writeReg, State.readReg, BitVec.getLsbD_setWidth, BitVec.getLsbD_and, hn,
      BitVec.getLsbD_ofBool, BitVec.getLsbD_one]
    by_cases h0 : n = 0 <;> simp [h0]
  · change (payloadWord (setPayloadWord _ _ i v) j).getLsbD b =
      if j = i then _ else (payloadWord s.payloadIn j).getLsbD b
    rw [getLsbD_payloadWord _ _ hb, getLsbD_payloadWord _ _ hb, getLsbD_setPayloadWord _ _ _ _ (by omega)]
    by_cases hji : j = i
    · subst hji
      rw [if_pos rfl, if_pos (by omega), Nat.add_sub_cancel_left, Bool.and_comm]
    · rw [if_neg hji, if_neg (by omega)]
      by_cases hn : 32 * j + b < s.cfg.payloadBits
      · simp [hn]
      · simp [hn, (payloadFits_iff_bits _ _).1 hfits _ (Nat.not_lt.1 hn)]

/-- Settles O16: the registers are their fields, extended by zeros. -/
theorem hostReadsRegisterFields : Obligations.HostReadsRegisterFields := by
  intro s
  refine ⟨rfl, rfl, rfl, ?_, ?_, ?_, ?_, fun i b hb => ?_⟩
  · simp [State.readReg]
  · refine BitVec.eq_of_getLsbD_eq fun n _ => ?_
    simp [State.readReg]
  · refine BitVec.eq_of_getLsbD_eq fun n hn => ?_
    simp [State.readReg, hn, hn.trans (by decide : 6 < 32)]
  · refine BitVec.eq_of_getLsbD_eq fun n _ => ?_
    simp [State.readReg]
  · have hin : (s.readReg (.payloadIn i)).getLsbD b = s.payloadIn.getLsbD (32 * i + b) :=
      getLsbD_payloadWord _ i hb
    have hres : (s.readReg (.resPayload i)).getLsbD b = s.resPayload.getLsbD (32 * i + b) :=
      getLsbD_payloadWord _ i hb
    rw [hin, hres]
    exact ⟨rfl, rfl, fun h => (payloadFits_iff_bits _ _).1 h _, fun h => (payloadFits_iff_bits _ _).1 h _⟩

/-! ### Byte lanes (R53) -/

theorem getLsbD_laneOf (w : Word) (b : Nat) {j : Nat} (hj : j < 8) :
    (laneOf w b).getLsbD j = w.getLsbD (8 * b + j) := by
  simp [laneOf, hj]

theorem wordOfLanes_lanesOf (w : Word) : wordOfLanes (lanesOf w) = some w := by
  refine congrArg some (BitVec.eq_of_getLsbD_eq fun j hj => ?_)
  simp only [BitVec.getLsbD_setWidth, BitVec.getLsbD_append, laneOf, BitVec.getLsbD_extractLsb', hj,
    decide_true, Bool.true_and]
  obtain h0 | h1 | h2 | h3 : j < 8 ∨ (8 ≤ j ∧ j < 16) ∨ (16 ≤ j ∧ j < 24) ∨ 24 ≤ j := by omega
  · simp [h0]
  · have hlane : ¬ j < 8 ∧ j - 8 < 8 ∧ 8 + (j - 8) = j := by omega
    simp [hlane]
  · have hlane : ¬ j < 8 ∧ ¬ j - 8 < 8 ∧ j - 8 - 8 < 8 ∧ 16 + (j - 8 - 8) = j := by omega
    simp [hlane]
  · have hlane : ¬ j < 8 ∧ ¬ j - 8 < 8 ∧ ¬ j - 8 - 8 < 8 ∧ j - 8 - 8 - 8 < 8 ∧
        24 + (j - 8 - 8 - 8) = j := by omega
    simp [hlane]

/-- Settles O21: a lane is eight bits of its word, and a byte address is a word's offset and a lane. -/
theorem littleEndianLanes : Obligations.LittleEndianLanes := by
  intro s w off b j hb hj hoff
  have hsplit : (off + b) % 4 = b ∧ off + b - b = off := by omega
  refine ⟨getLsbD_laneOf w b hj, wordOfLanes_lanesOf w, ?_⟩
  rw [State.regByte, hsplit.1, hsplit.2]
  exact getLsbD_laneOf _ b hj

/-! ### STATUS (R29, R180) -/

/-- The fields of the STATUS word, each at its bits. -/
theorem statusWord_fields (e : BitVec 4) (o r d b : Bool) :
    let w := (e ++ BitVec.ofBool o ++ BitVec.ofBool r ++ BitVec.ofBool d ++ BitVec.ofBool b).setWidth 32
    w.getLsbD 0 = b ∧ w.getLsbD 1 = d ∧ w.getLsbD 2 = r ∧ w.getLsbD 3 = o ∧
      w.extractLsb' 4 4 = e ∧ w.extractLsb' 8 24 = 0 := by
  refine ⟨?_, ?_, ?_, ?_, BitVec.eq_of_getLsbD_eq fun n hn => ?err, BitVec.eq_of_getLsbD_eq fun n hn => ?_⟩
  case err =>
    have hbits : 4 + n < 32 ∧ ¬ 4 + n < 1 ∧ ¬ 4 + n - 1 < 1 ∧ ¬ 4 + n - 1 - 1 < 1 ∧
        ¬ 4 + n - 1 - 1 - 1 < 1 ∧ 4 + n - 1 - 1 - 1 - 1 = n := by omega
    simp only [BitVec.getLsbD_extractLsb', BitVec.getLsbD_setWidth, BitVec.getLsbD_append, hbits, hn]
    simp
  all_goals
    simp only [BitVec.getLsbD_extractLsb', BitVec.getLsbD_setWidth, BitVec.getLsbD_append]
    simp

/-- Settles O14: the word is the concatenation of its fields. -/
theorem statusWordAndWriteOneToClear : Obligations.StatusWordAndWriteOneToClear := by
  refine ⟨⟨rfl, rfl, rfl, rfl, rfl, rfl, rfl, rfl⟩, fun s v => ?_⟩
  obtain ⟨hbusy, hdone, hres, hoverrun, herr, hzero⟩ :=
    statusWord_fields s.err.code s.overrun s.res s.done s.busy
  exact ⟨hbusy, hdone, hres, hoverrun, herr, hzero, rfl⟩

/-! ### The information registers (R36, R37, R38) -/

theorem State.paramInv_iff (s : State) :
    s.paramInv = true ↔ s.cfg.legal = true ∧ 1 ≤ s.numTables ∧ s.numTables ≤ 256 := by
  simp only [paramInv, Bool.and_eq_true, decide_eq_true_eq, and_assoc]

/-- PARAMS is two half words. -/
theorem toNat_halfWords (x y : BitVec 16) :
    (((x ++ y).setWidth 32).extractLsb' 0 16).toNat = y.toNat ∧
      (((x ++ y).setWidth 32).extractLsb' 16 16).toNat = x.toNat := by
  have hword : ((x ++ y).setWidth 32).toNat = 65536 * x.toNat + y.toNat := by
    rw [BitVec.setWidth_eq, BitVec.toNat_append, ← Nat.shiftLeft_add_eq_or_of_lt y.isLt, Nat.shiftLeft_eq]
    omega
  simp only [BitVec.extractLsb'_toNat, hword, Nat.shiftRight_eq_div_pow]
  omega

/-- Settles O22: within the ranges of R5 and R23 every number fits its field. -/
theorem informationRegistersRead : Obligations.InformationRegistersRead := by
  intro s hparam hpool
  obtain ⟨hcfg, -, htables⟩ := s.paramInv_iff.1 hparam
  obtain ⟨-, hbits, hcapC, hcapS⟩ := (Config.legal_iff _).1 hcfg
  obtain ⟨⟨-, husedC⟩, -, husedS⟩ := s.poolInv_iff.1 hpool
  obtain ⟨hlow, hhigh⟩ := toNat_halfWords (BitVec.ofNat 16 s.cfg.payloadBits) (BitVec.ofNat 16 s.numTables)
  simp only [State.readReg, hlow, hhigh, BitVec.toNat_ofNat, State.freeC, State.freeS]
  refine ⟨?_, ?_, ?_, ?_, ?_, ?_⟩ <;> omega

/-! ### The map and the writes of the host (R27, R210) -/

theorem regAt_payload {cfg : Config} (h : cfg.legal = true) {i : Nat} (hi : i < payloadWords cfg) :
    regAt cfg (0x100 + 4 * i) = .payloadIn i ∧ regAt cfg (0x200 + 4 * i) = .resPayload i := by
  have hwords := payloadWords_le h
  have hfixed (base : Nat) (hbase : 0x100 ≤ base) : base + 4 * i ≠ 0x000 ∧ base + 4 * i ≠ 0x004 ∧
      base + 4 * i ≠ 0x008 ∧ base + 4 * i ≠ 0x00C ∧ base + 4 * i ≠ 0x010 ∧ base + 4 * i ≠ 0x014 ∧
      base + 4 * i ≠ 0x018 ∧ base + 4 * i ≠ 0x01C ∧ base + 4 * i ≠ 0x020 ∧ base + 4 * i ≠ 0x024 ∧
      base + 4 * i ≠ 0x028 := by omega
  have hin : 0x100 ≤ 0x100 + 4 * i ∧ 0x100 + 4 * i < 0x100 + 4 * payloadWords cfg ∧
      (0x100 + 4 * i) % 4 = 0 := by omega
  have hnotIn : ¬ (0x100 ≤ 0x200 + 4 * i ∧ 0x200 + 4 * i < 0x100 + 4 * payloadWords cfg ∧
      (0x200 + 4 * i) % 4 = 0) := by omega
  have hres : 0x200 ≤ 0x200 + 4 * i ∧ 0x200 + 4 * i < 0x200 + 4 * payloadWords cfg ∧
      (0x200 + 4 * i) % 4 = 0 := by omega
  have hindex : (0x100 + 4 * i - 0x100) / 4 = i ∧ (0x200 + 4 * i - 0x200) / 4 = i := by omega
  constructor
  · simp only [regAt, hfixed 0x100 (by omega), if_false, if_pos hin, hindex]
  · simp only [regAt, hfixed 0x200 (by omega), if_false, if_neg hnotIn, if_pos hres, hindex]

/-- Settles O15: the payload arrays end before the next block of the map begins. -/
theorem hostAccessReachesRegister : Obligations.HostAccessReachesRegister := by
  refine ⟨fun cfg => ⟨rfl, rfl, rfl, rfl, rfl, rfl, rfl, rfl, rfl, rfl, rfl, fun h i => regAt_payload h⟩,
    fun s off rest hoff h4 => ⟨fun v => step_write_word hoff h4, step_read_word hoff h4⟩⟩

/-- Settles O19: each writable register is one field, STATUS its two write-1-to-clear bits. -/
theorem registerWriteFrame : Obligations.RegisterWriteFrame := by
  intro s v r hcmd
  cases r with
  | cmd => exact absurd rfl hcmd
  | status => exact ⟨rfl, fun h => absurd rfl h, fun _ => rfl, fun _ => rfl, fun _ => rfl⟩
  | ctrl => exact ⟨rfl, fun _ => ⟨rfl, rfl⟩, fun h => absurd rfl h, fun _ => rfl, fun _ => rfl⟩
  | addr => exact ⟨rfl, fun _ => ⟨rfl, rfl⟩, fun _ => rfl, fun h => absurd rfl h, fun _ => rfl⟩
  | payloadIn i =>
    exact ⟨rfl, fun _ => ⟨rfl, rfl⟩, fun _ => rfl, fun _ => rfl, fun h => absurd rfl (h i)⟩
  | resAddr | resCidr | freeCblocks | freeSblocks | params | capCblocks | capSblocks | resPayload i
  | unmapped => exact ⟨rfl, fun _ => ⟨rfl, rfl⟩, fun _ => rfl, fun _ => rfl, fun _ => rfl⟩

/-- Settles O27: the reset input is `afterReset` on the state with the later events. -/
theorem resetInputRestoresResetState : Obligations.ResetInputRestoresResetState := by
  intro s rest hinputs
  have hreset : step s = .next (State.afterReset { s with inputs := rest }) := by
    simp [step, hinputs, handleEvent]
  exact hreset

/-! ### Every step keeps the register-file invariant (R29, R32, R34, R35, R181) -/

theorem State.regInv_iff (s : State) :
    s.regInv = true ↔ (s.latch = none ∨ s.done = false) ∧
      (s.err = .ok ∨ s.res = false ∧ s.resAddr = 0 ∧ s.resCidr = 0 ∧ s.resPayload = 0) ∧
      s.resCidr.toNat ≤ 32 ∧ payloadFits s.cfg.payloadBits s.payloadIn = true ∧
      payloadFits s.cfg.payloadBits s.resPayload = true ∧
      latchFits s.cfg.payloadBits s.latch = true := by
  simp only [regInv, busy, Bool.and_eq_true, Bool.or_eq_true, decide_eq_true_eq, Bool.not_eq_true',
    Option.isSome_eq_false_iff, Option.isNone_iff_eq_none, and_assoc]

/-- Results that a completion may write: an error with zeros, or a length and a payload that fit. -/
def ResultLegal (bits : Nat) (r : Result) : Prop :=
  (r.err = .ok ∨ r.res = false ∧ r.addr = 0 ∧ r.cidr = 0 ∧ r.payload = 0) ∧ r.cidr.toNat ≤ 32 ∧
    payloadFits bits r.payload = true

theorem State.regInv_complete {s : State} (h : s.regInv = true) (ts : List Table) (uc us : Nat) {r : Result}
    (hr : ResultLegal s.cfg.payloadBits r) : ((s.withTables ts uc us).complete r).regInv = true := by
  obtain ⟨-, -, -, hin, -, -⟩ := s.regInv_iff.1 h
  obtain ⟨herr, hcidr, hpayload⟩ := hr
  exact (regInv_iff _).2 ⟨.inl rfl, herr, hcidr, hin, hpayload, rfl⟩

theorem resultLegal_error (bits : Nat) (e : ErrCode) : ResultLegal bits ⟨e, false, 0, 0, 0⟩ :=
  ⟨.inr ⟨rfl, rfl, rfl, rfl⟩, Nat.zero_le 32, payloadFits_zero bits⟩

theorem State.regInv_raise {s : State} (h : s.regInv = true) (e : ErrCode) : (s.raise e).regInv = true :=
  regInv_complete h s.tables s.usedC s.usedS (resultLegal_error _ e)

theorem Node.payloadFits_of_route {bits d : Nat} {n : Node} (h : n.legal bits d = true) {s : Fin 15}
    {p : Payload} (hroute : n.route s = some p) : payloadFits bits p = true := by
  have hblock := blockLegal_of_legal h
  cases hb : n.sblk with
  | none => simp [route_eq, hb] at hroute
  | some b =>
    rw [hb, blockLegal_some_iff] at hblock
    obtain ⟨-, hfits⟩ := hblock
    rw [route_eq, hb, Option.bind_some, Option.ite_none_right_eq_some] at hroute
    obtain ⟨-, ⟨⟩⟩ := hroute
    exact hfits s

/-- The routes of a legal table are PAYLOAD_BITS wide. -/
theorem payloadFits_of_storedAt {bits : Nat} {root : Node} (h : root.legal bits 0 = true) {a : Key}
    {c : Nat} {p : Payload} (hstored : storedAt root a c = some p) : payloadFits bits p = true := by
  rw [storedAt_eq_routeAt, routeAt_eq_bind, Option.bind_eq_some_iff] at hstored
  obtain ⟨n, hfind, hroute⟩ := hstored
  exact Node.payloadFits_of_route (legal_findFrom h hfind) hroute

theorem Answer.resultLegal {s : State} {L : Latch} {r : Result} (h : Answer s L r)
    (hinv : s.trieInv = true) : ResultLegal s.cfg.payloadBits r := by
  have hlegal {T : Table} (hT : T ∈ s.tables) : T.root.legal s.cfg.payloadBits 0 = true :=
    ((Table.legal_iff ..).1 (s.trieInv_iff.1 hinv T hT)).1
  refine ⟨.inl h.err_eq_ok, ?_⟩
  cases h with
  | flag => exact ⟨Nat.zero_le 32, payloadFits_zero _⟩
  | @found T m hT hm =>
    rw [lookup_eq_longestBelow (noK3OnPath_of_legal (hlegal hT) L.addr)] at hm
    refine ⟨Nat.zero_le 32, ?_⟩
    cases m with
    | none => exact payloadFits_zero _
    | some p =>
      obtain ⟨c, -, hstored, -⟩ := longestBelow_eq_some_iff.1 (Except.ok.inj hm)
      exact payloadFits_of_storedAt (hlegal hT) hstored
  | @element T e hT he =>
    obtain ⟨hlen, -, hstored⟩ := (Node.mem_enumAll_iff (hlegal hT)).1 he
    refine ⟨?_, payloadFits_of_storedAt (hlegal hT) hstored⟩
    change (BitVec.ofNat 6 e.cidr).toNat ≤ 32
    rw [BitVec.toNat_ofNat]
    exact (Nat.mod_le ..).trans hlen

theorem State.regInv_writeCmd {s : State} (h : s.regInv = true) (v : Word) :
    (s.writeCmd v).regInv = true := by
  obtain ⟨hdone, herr, hcidr, hin, hres, hlatch⟩ := s.regInv_iff.1 h
  cases hl : s.latch with
  | none => rw [writeCmd_of_idle v hl]; exact (regInv_iff _).2 ⟨.inr rfl, herr, hcidr, hin, hres, hin⟩
  | some L => rw [writeCmd_of_busy v hl]; exact h

theorem State.regInv_writeReg {s : State} (h : s.regInv = true) (v : Word) (r : Reg) :
    (s.writeReg v r).regInv = true := by
  obtain ⟨hdone, herr, hcidr, hin, hres, hlatch⟩ := s.regInv_iff.1 h
  cases r with
  | cmd => exact regInv_writeCmd h v
  | status =>
    have hdone' : s.latch = none ∨ (s.done && !v.getLsbD 1) = false :=
      hdone.imp_right fun hd => by rw [hd, Bool.false_and]
    exact (regInv_iff _).2 ⟨hdone', herr, hcidr, hin, hres, hlatch⟩
  | payloadIn i =>
    exact (regInv_iff _).2 ⟨hdone, herr, hcidr, payloadFits_setPayloadWord .., hres, hlatch⟩
  | ctrl | addr => exact h
  | resAddr | resCidr | freeCblocks | freeSblocks | params | capCblocks | capSblocks | resPayload i
  | unmapped => exact h

theorem State.regInv_resetWith (cfg : Config) (n : Nat) : (State.resetWith cfg n).regInv = true :=
  (regInv_iff _).2 ⟨.inl rfl, .inl rfl, Nat.zero_le 32, payloadFits_zero _, payloadFits_zero _, rfl⟩

/-- Settles O57: a write keeps the widths and the latch takes PAYLOAD_IN, and a completion writes an error with
zeros or the answer of a command, whose length and payload come from a legal trie. -/
theorem stepKeepsRegisterInvariant : Obligations.StepKeepsRegisterInvariant := by
  intro s s' htrie hreg hstep
  obtain ⟨rest, hturn⟩ := step_turn hstep
  have hreg : State.regInv { s with inputs := rest } = true := hreg
  cases hturn with
  | idle => exact hreg
  | illegal x => exact State.regInv_raise hreg _
  | access h =>
    obtain ⟨_, _, _, -, -, rfl⟩ | ⟨_, _, v, off, -, -, rfl⟩ := hostAccess_next h
    · exact hreg
    · exact State.regInv_writeReg hreg v _
  | command _ h =>
    cases h with
    | error => exact State.regInv_raise hreg _
    | answer _ hr => exact State.regInv_complete hreg s.tables s.usedC s.usedS (hr.resultLegal htrie)
    | update _ _ hr => exact State.regInv_complete hreg _ _ _ (hr.resultLegal htrie)
  | reset => exact State.regInv_resetWith s.cfg s.numTables

/-- Settles O54: the four invariants of the reset state, for parameters in their ranges. -/
theorem resetMeetsInvariants : Obligations.ResetMeetsInvariants := by
  have hall (cfg : Config) (n : Nat) (hcfg : cfg.legal = true) (hn : 1 ≤ n) (hn' : n ≤ 256) :
      (State.resetWith cfg n).inv = true := by
    have hlength : (State.resetWith cfg n).numTables = n := List.length_replicate
    have hparam : (State.resetWith cfg n).paramInv = true :=
      (State.paramInv_iff _).2 ⟨hcfg, by rwa [hlength], by rwa [hlength]⟩
    rw [State.inv, hparam, State.trieInv_resetWith, State.poolInv_resetWith, State.regInv_resetWith]
    rfl
  exact ⟨hall, hall _ _ rfl (by decide) (by decide)⟩

end Sys2Proof.Machine
end

section
/-! The route and table commands as full completions: ADD with and without the blocks it needs (R110, R111,
R128), DELETE (R120), and the table commands that change no trie walk by walk (R150, R156, R170, R172, R175). -/

namespace Sys2Proof.Machine

/-! ### Routes and canonical forms (R105) -/

/-- Two keys with one canonical form of length c name the same stored route. -/
theorem storedAt_congr {a b : Key} {c : Nat} (hc : c ≤ 32) (h : maskKey a c = maskKey b c) (root : Node) :
    storedAt root a c = storedAt root b c := by
  obtain ⟨hpath, hslot⟩ := (maskKey_eq_iff_boundary hc).1 h
  rw [storedAt_eq_routeAt, storedAt_eq_routeAt, hslot, routeAt_congr (by omega) hpath]

/-- Settles O10: the canonical form of length c names the node and the slot. -/
theorem storedRouteOfCanonicalPrefix : Obligations.StoredRouteOfCanonicalPrefix :=
  fun root _ _ _ hc h => storedAt_congr hc h root

theorem maskKey_maskKey (a : Key) (c : Nat) : maskKey (maskKey a c) c = maskKey a c := by
  refine BitVec.eq_of_getLsbD_eq fun j hj => ?_
  rw [getLsbD_maskKey _ _ hj, getLsbD_maskKey _ _ hj, Bool.and_assoc, Bool.and_self]

/-! ### ADD (R110, R111) -/

theorem replaced_insertFrom (a : Key) (s : Fin 15) (p : Payload) (rem d : Nat) (n : Node) :
    (insertFrom a s p rem d n).replaced = (routeFrom a rem d n s).isSome := by
  induction rem generalizing d n with
  | zero => exact n.replaced_storeRoute s p
  | succ rem ih =>
    obtain ⟨-, -, hreplaced⟩ := insertFrom_succ_counts a s p rem d n
    rw [hreplaced, ih, routeFrom_succ]

theorem Node.replaced_insert (root : Node) (a : Key) (c : Nat) (p : Payload) :
    (root.insert a c p).replaced = (storedAt root a c).isSome := by
  rw [storedAt_eq_routeAt, routeAt_eq_routeFrom]
  exact replaced_insertFrom ..

theorem State.short_eq_true_iff (s : State) (need : Nat × Nat) :
    s.short need = true ↔ s.cfg.cblockCap - s.usedC < need.1 ∨ s.cfg.sblockCap - s.usedS < need.2 := by
  rw [short, Bool.or_eq_true, decide_eq_true_iff, decide_eq_true_iff]
  rfl

section
variable {s : State} {L : Latch} {t c : Nat} {T : Table} (hlatch : s.latch = some L)
  (ht : s.tables[t]? = some T) (hlive : T.live = true)
include hlatch ht hlive

/-- ADD after checks 1 to 5 of R182. -/
theorem exec_add_checked (hc : c ≤ 32) :
    exec (.add c t) s =
      if s.short (T.root.need L.addr (c / 3)) then .next (s.errorCompletion .nomem)
      else .next (((s.setTable t (T.mutated (T.root.insert L.addr c L.payload).node)).allocate
        (T.root.insert L.addr c L.payload).nc (T.root.insert L.addr c L.payload).ns).okCompletion
          (storedAt T.root L.addr c).isSome 0) := by
  have hrun : exec (.add c t) s = execAdd c t s := rfl
  rw [hrun, execAdd, withLatch_some hlatch, withLiveTable_live ht hlive, withCidr,
    if_neg (Nat.not_lt.2 hc), ← Node.replaced_insert T.root L.addr c L.payload]
  rfl

theorem exec_add_of_room (hc : c ≤ 32) (hroom : s.short (T.root.need L.addr (c / 3)) = false) :
    exec (.add c t) s =
      .next (((s.setTable t (T.mutated (T.root.insert L.addr c L.payload).node)).allocate
        (T.root.insert L.addr c L.payload).nc (T.root.insert L.addr c L.payload).ns).okCompletion
          (storedAt T.root L.addr c).isSome 0) := by
  rw [exec_add_checked hlatch ht hlive hc, if_neg (Bool.eq_false_iff.1 hroom)]

end

/-- Settles O33: check 7 of R182 is the comparison of the counted blocks with the free ones. -/
theorem nomemExactlyWhenShort : Obligations.NomemExactlyWhenShort := by
  intro s L c t T hlatch ht hlive hc
  rw [← State.short_eq_true_iff, exec_add_checked hlatch ht hlive hc]
  exact ⟨fun hshort => if_pos hshort, fun hroom => ⟨_, if_neg hroom, rfl⟩⟩

/-- Settles O35: with the blocks it needs ADD inserts its route, for the blocks that were counted. -/
theorem addStoresRoute : Obligations.AddStoresRoute := by
  intro s L c t T hlatch ht hlive hc hlegal hnc hns
  have hroom : s.short (T.root.need L.addr (c / 3)) = false := (s.short_eq_false_iff _).2 ⟨hnc, hns⟩
  refine ⟨(T.root.insert L.addr c L.payload).node, ?_, fun b d _ =>
    (routeUpdate_insert T.root L.addr L.payload hc).storedAt_eq hc b d⟩
  rw [exec_add_of_room hlatch ht hlive hc hroom, Node.need_eq_insert hlegal L.addr c L.payload]
  rfl

/-! ### DELETE (R120) -/

theorem exec_delete_checked {s : State} {L : Latch} {t c : Nat} {T : Table} (hlatch : s.latch = some L)
    (ht : s.tables[t]? = some T) (hlive : T.live = true) (hc : c ≤ 32) :
    exec (.delete c t) s = .next ((s.setTable t (T.mutated ((T.root.remove L.addr c).getD
      T.root))).okCompletion (T.root.remove L.addr c).isSome 0) := by
  have hrun : exec (.delete c t) s = execDelete c t s := rfl
  rw [hrun, execDelete, withLatch_some hlatch, withLiveTable_live ht hlive, withCidr,
    if_neg (Nat.not_lt.2 hc)]
  cases T.root.remove L.addr c <;> rfl

theorem Node.isSome_remove (root : Node) (a : Key) (c : Nat) :
    (root.remove a c).isSome = (storedAt root a c).isSome := by
  obtain ⟨hremove, hstored⟩ | ⟨_, _, -, -, -, hstored, hremove⟩ := root.remove_cases a c <;>
    rw [hremove, hstored] <;> rfl

/-- What DELETE leaves stores every route but the named one, which it may not have stored. -/
theorem storedAt_remove_getD (root : Node) (a : Key) {c : Nat} (hc : c ≤ 32) (b : Key) (d : Nat) :
    storedAt ((root.remove a c).getD root) b d =
      if d = c ∧ maskKey b c = maskKey a c then none else storedAt root b d := by
  cases hremove : root.remove a c with
  | some root' => exact (routeUpdate_remove hc hremove).storedAt_eq hc b d
  | none =>
    have hstored : storedAt root a c = none := by
      rw [← Option.isNone_iff_eq_none, ← Option.isSome_eq_false_iff, ← Node.isSome_remove, hremove]
      rfl
    change storedAt root b d = _
    split
    · next heq =>
      obtain ⟨rfl, hmask⟩ := heq
      rw [storedAt_congr hc hmask, hstored]
    · rfl

/-- Settles O38: DELETE vacates the slot of a stored route, and leaves the root of an absent one. -/
theorem deleteRemovesRoute : Obligations.DeleteRemovesRoute := by
  intro s L c t T hlatch ht hlive hc
  refine ⟨(T.root.remove L.addr c).getD T.root, ?_, fun hnone => ?_, fun b d _ =>
    storedAt_remove_getD T.root L.addr hc b d⟩
  · rw [exec_delete_checked hlatch ht hlive hc, Node.isSome_remove]
    rfl
  · have hremove : T.root.remove L.addr c = none := by
      rw [← Option.isNone_iff_eq_none, ← Option.isSome_eq_false_iff, Node.isSome_remove, hnone]
      rfl
    rw [hremove]
    rfl

/-! ### A second ADD of the same route (R128) -/

theorem insertFrom_congr {a b : Key} {rem d : Nat} (h : SamePath a b d rem) (s : Fin 15) (p : Payload)
    (n : Node) : insertFrom a s p rem d n = insertFrom b s p rem d n := by
  induction rem generalizing d n with
  | zero => rfl
  | succ rem ih =>
    have hrest : SamePath a b (d + 1) rem := fun i hi hlt => h i (by omega) (by omega)
    rw [insertFrom, insertFrom, h d (Nat.le_refl d) (by omega), ih hrest]

/-- Keys with one canonical form of length c insert alike. -/
theorem Node.insert_congr {a b : Key} {c : Nat} (hc : c ≤ 32) (h : maskKey a c = maskKey b c)
    (root : Node) (p : Payload) : root.insert a c p = root.insert b c p := by
  obtain ⟨hpath, hslot⟩ := (maskKey_eq_iff_boundary hc).1 h
  rw [insert, insert, hslot]
  exact insertFrom_congr ((samePath_zero_iff (by omega)).2 hpath) _ _ _

/-- The second insertion of one route finds every block of its path and the route itself. -/
theorem insertFrom_insertFrom (a : Key) (s : Fin 15) (p q : Payload) (rem d : Nat) (n : Node) :
    (insertFrom a s q rem d (insertFrom a s p rem d n).node).nc = 0 ∧
      (insertFrom a s q rem d (insertFrom a s p rem d n).node).ns = 0 := by
  induction rem generalizing d n with
  | zero =>
    obtain ⟨hnc, hns⟩ := (n.storeRoute s p).node.counts_storeRoute s q
    have howns : (n.storeRoute s p).node.salloc = true := by
      cases hb : n.sblk <;> simp [Node.storeRoute, Node.salloc, hb]
    simp only [insertFrom_zero, hnc, hns, howns, if_true, and_self]
  | succ rem ih =>
    obtain ⟨hnc, hns, -⟩ := insertFrom_succ_counts a s q rem d (insertFrom a s p (rem + 1) d n).node
    obtain ⟨ihc, ihs⟩ := ih (d + 1) (n.kidOrEmpty (group a d))
    rw [hnc, hns, insertFrom_succ_calloc, kidOrEmpty_insertFrom, if_pos rfl, if_pos rfl, ihc, ihs]
    exact ⟨rfl, rfl⟩

/-- A list that holds one triple of a name, each name once, has that triple alone under the name. -/
theorem filter_enumAll_eq_singleton {bits : Nat} {root : Node} (hlegal : root.legal bits 0 = true)
    {a : Key} {c : Nat} (hc : c ≤ 32) {p : Payload} (hstored : storedAt root a c = some p) :
    (root.enumAll.filter fun e => decide (e.addr = maskKey a c ∧ e.cidr = c)) =
      [{ addr := maskKey a c, cidr := c, payload := p }] := by
  have hnodup : root.enumAll.Nodup :=
    (Node.pairwise_entries hlegal (by decide)).imp fun hne heq => hne (by rw [heq])
  have hcanonical : storedAt root (maskKey a c) c = some p := by
    rw [storedAt_congr hc (maskKey_maskKey a c), hstored]
  refine List.perm_singleton.1 ((List.perm_ext_iff_of_nodup (hnodup.filter _)
    (List.nodup_singleton _)).2 fun e => ?_)
  rw [List.mem_filter, List.mem_singleton, Node.mem_enumAll_iff hlegal, decide_eq_true_iff]
  constructor
  · obtain ⟨a', c', p'⟩ := e
    rintro ⟨⟨-, -, hstored'⟩, haddr, hlen⟩
    dsimp only at hstored' haddr hlen
    subst haddr hlen
    cases hcanonical.symm.trans hstored'
    rfl
  · rintro rfl
    exact ⟨⟨hc, maskKey_maskKey a c, hcanonical⟩, rfl, rfl⟩

/-- The second ADD of a route completes with RES = 1 and allocates nothing. -/
theorem exec_add_again {s : State} {L : Latch} {t c : Nat} {T : Table} {root : Node} {a : Key} {p : Payload}
    (hlatch : s.latch = some L) (ht : s.tables[t]? = some T) (hlive : T.live = true) (hc : c ≤ 32)
    (hroot : T.root = (root.insert a c p).node) (hlegal : T.root.legal s.cfg.payloadBits 0 = true)
    (hmask : maskKey L.addr c = maskKey a c) :
    exec (.add c t) s = .next ((s.setTable t
      (T.mutated (T.root.insert L.addr c L.payload).node)).okCompletion true 0) := by
  obtain ⟨hnc, hns⟩ := insertFrom_insertFrom a (boundary a c).slot p L.payload (boundary a c).depth 0 root
  have hcounts : (T.root.insert L.addr c L.payload).nc = 0 ∧ (T.root.insert L.addr c L.payload).ns = 0 := by
    rw [Node.insert_congr hc hmask, hroot]
    exact ⟨hnc, hns⟩
  have hstored : storedAt T.root L.addr c = some p := by
    rw [hroot, (routeUpdate_insert root a p hc).storedAt_eq hc, if_pos ⟨rfl, hmask⟩]
  have hroom : s.short (T.root.need L.addr (c / 3)) = false := by
    rw [Node.need_eq_insert hlegal L.addr c L.payload, hcounts.1, hcounts.2, State.short_eq_false_iff]
    exact ⟨Nat.zero_le _, Nat.zero_le _⟩
  rw [exec_add_of_room hlatch ht hlive hc hroom, hcounts.1, hcounts.2, hstored]
  rfl

/-- Settles O53: the first ADD leaves a legal trie in which the second finds its route; what it stores is seen
by the enumeration once, and by LOOKUP as after any ADD. -/
theorem insertIsIdempotent : Obligations.InsertIsIdempotent := by
  intro s s1 L L2 c t T hlatch ht hlegal hfits hfits2 hmask hexec hok
  obtain ⟨hlive, hc, htable⟩ := exec_add_table hlatch ht hok hexec
  have hcfg : s1.cfg = s.cfg := (exec_completes hexec).cfg
  have hlegal1 := Node.legal_insert hlegal L.addr hc hfits
  rw [← hcfg] at hfits2 hlegal1
  generalize hroot : (T.root.insert L.addr c L.payload).node = root1 at htable hlegal1
  have hagain : exec (.add c t) { s1 with latch := some L2 } = .next ((State.setTable t
      ((T.mutated root1).mutated (root1.insert L2.addr c L2.payload).node)
        { s1 with latch := some L2 }).okCompletion true 0) :=
    exec_add_again rfl htable hlive hc hroot.symm hlegal1 hmask
  have hupdate := routeUpdate_insert root1 L2.addr L2.payload hc
  have hlegal2 := Node.legal_insert hlegal1 L2.addr hc hfits2
  generalize (root1.insert L2.addr c L2.payload).node = root2 at hagain hupdate hlegal2
  have hstored : storedAt root2 L.addr c = some L2.payload := by
    rw [hupdate.storedAt_eq hc, if_pos ⟨rfl, hmask.symm⟩]
  refine ⟨_, (T.mutated root1).mutated root2, hagain, rfl, rfl, rfl, rfl, ?_, hstored,
    filter_enumAll_eq_singleton hlegal2 hc hstored, fun L3 c' hmask3 hlonger => ?_⟩
  · exact List.getElem?_set_self (List.getElem?_eq_some_iff.1 htable).1
  · refine addThenLookup { s1 with latch := some L2 } _ L2 L3 c c' t _ rfl htable hlegal1 hfits2 hagain rfl
      (hmask3.trans hmask.symm) fun d hd hd32 => ?_
    have hother : storedAt root2 L3.addr d = none := hlonger d hd hd32
    rwa [hupdate.storedAt_eq hc, if_neg (by omega)] at hother

/-! ### Errors and table commands on a given table (R85, R150, R156, R170, R172, R175) -/

section
variable {s : State} {L : Latch} {t : Nat} {T : Table} (hlatch : s.latch = some L)
  (ht : s.tables[t]? = some T)
include hlatch ht

/-- A command on a created table, past checks 3 and 4 of R182. -/
theorem latched_withLiveTable_live (hlive : T.live = true)
    (k : Latch → Table → Host.Outcome State Fault Refusal) :
    (withLatch s fun L => withLiveTable t s (k L)) = k L T := by
  rw [withLatch_some hlatch, withLiveTable_live ht hlive]

/-- RELEASE and CREATE, past check 3 of R182. -/
theorem latched_withTable_some (k : Latch → Table → Host.Outcome State Fault Refusal) :
    (withLatch s fun L => withTable t s (k L)) = k L T := by
  rw [withLatch_some hlatch, withTable_some ht]

end

theorem withCidr_bad {c : Nat} (hc : 32 < c) (s : State) (k : Host.Outcome State Fault Refusal) :
    withCidr c s k = .next (s.errorCompletion .badCidr) := if_pos hc

/-- Settles O32: check 5 of R182 stops both commands. -/
theorem badCidrCompletion : Obligations.BadCidrCompletion := by
  intro s L c t T hlatch ht hlive hc
  exact ⟨(latched_withLiveTable_live hlatch ht hlive _).trans (withCidr_bad hc s _),
    (latched_withLiveTable_live hlatch ht hlive _).trans (withCidr_bad hc s _)⟩

/-- Settles O34: NOP makes no check and completes. -/
theorem nopCompletes : Obligations.NopCompletes :=
  fun _ _ _ _ hlatch => withLatch_some hlatch _

/-- Settles O40: CLEAR is `emptyTable`. -/
theorem clearEmptiesTable : Obligations.ClearEmptiesTable :=
  fun _ _ _ _ _ hlatch ht hlive => latched_withLiveTable_live hlatch ht hlive _

/-- Settles O41: ENUM_START writes the cursor of its table. -/
theorem enumStartSetsCursor : Obligations.EnumStartSetsCursor :=
  fun _ _ _ _ _ hlatch ht hlive => latched_withLiveTable_live hlatch ht hlive _

/-- Settles O43: RELEASE past check 3 goes by the table's `live`. -/
theorem releaseFreesTable : Obligations.ReleaseFreesTable := by
  intro s L c t T hlatch ht
  have hrun := latched_withTable_some hlatch ht
  exact ⟨fun hlive => (hrun _).trans (if_pos hlive),
    fun hreleased => exec_release_released hlatch ht hreleased c⟩

/-- Settles O44: CREATE past check 3 goes by the table's `live`, which a created table keeps. -/
theorem createMakesTableLive : Obligations.CreateMakesTableLive := by
  intro s L c t T hlatch ht
  refine (latched_withTable_some hlatch ht _).trans ?_
  obtain ⟨live, root, valid, pos⟩ := T
  cases live <;> rfl

end Sys2Proof.Machine
end

section
/-! The command word read back (R80, R89, R90): what a word that decodes is, and which words decode. -/

namespace Sys2Proof

/-! ### Words that decode -/

/-- A word that names a command has both reserved fields 0, and its three fields are the command's. -/
theorem decode_ok {w : Word} {i : Instr} (h : decode w = .ok i) :
    rsv0Field w = 0 ∧ rsv1Field w = 0 ∧ i.opcode = opField w ∧ i.cidr = cidrField w ∧
      i.table = tableField w := by
  unfold decode at h
  split at h
  · cases h
  · next j hj =>
    by_cases hrsv : rsv0Field w ≠ 0 ∨ rsv1Field w ≠ 0
    · rw [if_pos hrsv] at h; cases h
    · rw [if_neg hrsv] at h
      cases h
      obtain ⟨h0, h1⟩ : rsv0Field w = 0 ∧ rsv1Field w = 0 := by simpa using hrsv
      exact ⟨h0, h1, Machine.commandOf_eq_some hj⟩

/-- The fields of a word as arithmetic on its number. -/
theorem field_eq (w : Word) (start len : Nat) :
    (w.extractLsb' start len).toNat = w.toNat / 2 ^ start % 2 ^ len := by
  rw [BitVec.extractLsb'_toNat, Nat.shiftRight_eq_div_pow]

/-- A word with both reserved fields 0 is the word of its three fields (R80). -/
theorem commandWord_fields {w : Word} (h0 : rsv0Field w = 0) (h1 : rsv1Field w = 0) :
    commandWord (w.extractLsb' 16 8) (w.extractLsb' 4 6) (w.extractLsb' 0 4) = w := by
  rw [← BitVec.toNat_inj, commandWord_toNat_eq_sum]
  rw [rsv0Field, field_eq] at h0
  rw [rsv1Field, field_eq] at h1
  have hw := w.isLt
  simp only [field_eq]
  omega

theorem wellFormed_of_decode {w : Word} {i : Instr} (h : decode w = .ok i) : i.wellFormed = true := by
  obtain ⟨-, -, -, hc, ht⟩ := decode_ok h
  rw [Instr.wellFormed_iff, hc, ht]
  exact ⟨(w.extractLsb' 4 6).isLt, (w.extractLsb' 16 8).isLt⟩

theorem encode_of_decode {w : Word} {i : Instr} (h : decode w = .ok i) : encode i = w := by
  obtain ⟨h0, h1, hop, hc, ht⟩ := decode_ok h
  rw [encode_eq_commandWord, hop, hc, ht, opField, cidrField, tableField, BitVec.ofNat_toNat,
    BitVec.ofNat_toNat, BitVec.ofNat_toNat, BitVec.setWidth_eq, BitVec.setWidth_eq, BitVec.setWidth_eq]
  exact commandWord_fields h0 h1

/-- Settles O2: a word with both reserved fields 0 is put together from its fields again. -/
theorem decodedWordIsTheEncoding : Obligations.DecodedWordIsTheEncoding :=
  fun _ _ h => ⟨wellFormed_of_decode h, encode_of_decode h⟩

/-! ### Match and mask (R80) -/

/-- A field that lies inside the mask reads the same in the masked word. -/
theorem field_of_masked (w : Word) {start len : Nat}
    (hmask : (0xFF00FC0F#32).extractLsb' start len = BitVec.allOnes len) :
    (w.extractLsb' start len).toNat = (w &&& 0xFF00FC0F#32).toNat / 2 ^ start % 2 ^ len := by
  rw [← field_eq, BitVec.extractLsb'_and, hmask, BitVec.and_allOnes]

/-- The mask of R80 covers OP and both reserved fields. -/
theorem fields_of_masked (w : Word) :
    opField w = (w &&& 0xFF00FC0F#32).toNat % 16 ∧
      rsv0Field w = (w &&& 0xFF00FC0F#32).toNat / 2 ^ 10 % 2 ^ 6 ∧
      rsv1Field w = (w &&& 0xFF00FC0F#32).toNat / 2 ^ 24 % 2 ^ 8 := by
  have hop := field_of_masked w (start := 0) (len := 4) (by decide)
  refine ⟨?_, field_of_masked w (by decide), field_of_masked w (by decide)⟩
  rwa [Nat.pow_zero, Nat.div_one] at hop

theorem masked_encode_toNat (i : Instr) : (encode i &&& 0xFF00FC0F#32).toNat = i.opcode := by
  have hop := i.opcode_lt
  rw [Laws.encode_masked, BitVec.toNat_setWidth, BitVec.toNat_ofNat]
  omega

/-- Settles O3: a legal word is an encoding, of which the mask leaves OP; and where the mask leaves a defined
OP, both reserved fields are 0. -/
theorem legalWordMatchAndMask : Obligations.LegalWordMatchAndMask := by
  intro w o
  refine ⟨⟨?_, ?_⟩, fun i h => ?_⟩
  · rintro ⟨i, hdec, rfl⟩
    rw [← encode_of_decode hdec, masked_encode_toNat]
    exact ⟨rfl, Nat.lt_succ_iff.1 i.opcode_lt⟩
  · rintro ⟨rfl, ho⟩
    obtain ⟨hop, h0, h1⟩ := fields_of_masked w
    obtain ⟨i, hi⟩ := commandOf_defined (op := opField w) (cidrField w) (tableField w) (by omega)
    obtain ⟨hiop, -, -⟩ := Machine.commandOf_eq_some hi
    exact ⟨i, decode_command (by omega) (by omega) hi, by omega⟩
  · obtain ⟨-, -, hop, hc, ht⟩ := decode_ok h
    exact ⟨hop, hc, ht⟩

/-- Settles O4: the nine words, evaluated by the decoder. -/
theorem vectorWordsDecode : Obligations.VectorWordsDecode := by
  unfold Obligations.VectorWordsDecode
  exact ⟨rfl, rfl, rfl, rfl, rfl, rfl, rfl, rfl, rfl⟩

end Sys2Proof

namespace Sys2Proof.Machine

/-- Settles O11: the engine's turn fetches and decodes the latch. -/
theorem stepRunsDecodedCommand : Obligations.StepRunsDecodedCommand := by
  intro s L i hlatch hdec
  refine ⟨wellFormed_of_decode hdec, fun hempty => ?_, fun rest hhead =>
    step_command (.inr hhead) hlatch hdec⟩
  have hstep := step_command (.inl ⟨hempty, rfl⟩) hlatch hdec
  rwa [show { s with inputs := [] } = s by rw [← hempty]] at hstep

end Sys2Proof.Machine
end

section
/-! Progress (R186, R220): no step of a block with legal tries faults, only accesses outside the bus rules are
refused, and a busy block completes or is reset within the pending events and one step. -/

namespace Sys2Proof.Machine

/-! ### Which accesses are served (R50, R52) -/

/-- The rule of R50 and R52 for the address and the width of an access. -/
def Servable (cfg : Config) (address bytes : Nat) : Prop :=
  cfg.base ≤ address ∧ address < cfg.base + 0x400 ∧ bytes = 4 ∧ (address - cfg.base) % 4 = 0

theorem accessOffset_of_servable {cfg : Config} {address bytes : Nat} (h : Servable cfg address bytes) :
    accessOffset cfg address bytes = .ok (address - cfg.base) := by
  obtain ⟨hlow, hhigh, rfl, h4⟩ := h
  have haligned := accessOffset_aligned cfg (off := address - cfg.base) (by omega) h4
  rwa [Nat.add_sub_cancel' hlow] at haligned

theorem accessOffset_of_not_servable {cfg : Config} {address bytes : Nat}
    (h : ¬ Servable cfg address bytes) : ∃ r, accessOffset cfg address bytes = .error r := by
  cases haccess : accessOffset cfg address bytes with
  | error r => exact ⟨r, rfl⟩
  | ok off =>
    obtain ⟨rfl, hoff, h4, rfl⟩ := accessOffset_ok haccess
    exact absurd ⟨by omega, by omega, rfl, by rwa [Nat.add_sub_cancel_left]⟩ h

theorem eventServed_read_iff {cfg : Config} {address bytes : Nat} :
    eventServed cfg (.access (.read address bytes)) = true ↔ Servable cfg address bytes := by
  simp only [eventServed, Servable, Bool.and_eq_true, decide_eq_true_eq, and_assoc]

theorem eventServed_write_iff {cfg : Config} {address bytes : Nat} {v : Word} :
    eventServed cfg (.access (.write address bytes v)) = true ↔ Servable cfg address bytes := by
  simp only [eventServed, Servable, Bool.and_eq_true, decide_eq_true_eq, and_assoc]

/-- An access is served and has a next state, or it is not and is refused. -/
theorem hostAccess_cases (a : Access) (s : State) :
    (eventServed s.cfg (.access a) = true ∧ ∃ s', hostAccess a s = .next s') ∨
      (eventServed s.cfg (.access a) = false ∧ ∃ r, hostAccess a s = .refused r) := by
  cases a with
  | read address bytes =>
    rw [← Bool.not_eq_true, eventServed_read_iff]
    by_cases h : Servable s.cfg address bytes
    · exact .inl ⟨h, _, by rw [hostAccess, accessOffset_of_servable h]⟩
    · obtain ⟨r, hr⟩ := accessOffset_of_not_servable h
      exact .inr ⟨h, r, hostAccess_read_error hr⟩
  | write address bytes v =>
    rw [← Bool.not_eq_true, eventServed_write_iff]
    by_cases h : Servable s.cfg address bytes
    · exact .inl ⟨h, _, by rw [hostAccess, accessOffset_of_servable h]⟩
    · obtain ⟨r, hr⟩ := accessOffset_of_not_servable h
      exact .inr ⟨h, r, hostAccess_write_error v hr⟩

/-! ### No step faults (R186) -/

/-- The engine's turn over legal tries has a next state: idle, an error completion, or one with OK. -/
theorem engineTurn_progress {s : State} (hinv : s.trieInv = true) : ∃ s', engineTurn s = .next s' := by
  obtain ⟨-, hidle⟩ | ⟨-, x, -, -, herr⟩ | ⟨L, i, hlatch, -, hexec⟩ := engineTurn_cases s
  · exact ⟨_, hidle⟩
  · exact ⟨_, herr⟩
  · have hanswers := exec_answers hlatch i
    rw [hexec]
    cases hcheck : s.checkError L i with
    | some e => rw [hcheck] at hanswers; exact ⟨_, hanswers⟩
    | none =>
      rw [hcheck] at hanswers
      obtain ⟨s', hnext, -⟩ := hanswers.completes_ok hinv
      exact ⟨s', hnext⟩

/-- A step over legal tries has a next state, or refuses an access that is not served. -/
theorem step_progress {s : State} (hinv : s.trieInv = true) :
    (∃ s', step s = .next s') ∨ (∃ r, step s = .refused r) ∧
      ∃ e rest, s.inputs = e :: rest ∧ eventServed s.cfg e = false := by
  obtain ⟨-, heq⟩ | ⟨a, rest, hinputs, heq⟩ | ⟨rest, -, heq⟩ | ⟨rest, -, heq⟩ := step_cases s
  · rw [heq]; exact .inl (engineTurn_progress hinv)
  · rw [heq]
    obtain ⟨-, hnext⟩ | ⟨hserved, hrefused⟩ := hostAccess_cases a { s with inputs := rest }
    · exact .inl hnext
    · exact .inr ⟨hrefused, _, rest, hinputs, hserved⟩
  · rw [heq]; exact .inl (engineTurn_progress (s := { s with inputs := rest }) hinv)
  · exact .inl ⟨_, heq⟩

/-- Settles O59: a step that has a next state is neither a fault nor a refusal. -/
theorem engineNeverHalts : Obligations.EngineNeverHalts := by
  intro s hinv
  obtain ⟨s', hnext⟩ | ⟨⟨r, hrefused⟩, hevent⟩ := step_progress hinv
  · rw [hnext]
    exact ⟨nofun, nofun⟩
  · rw [hrefused]
    exact ⟨nofun, fun _ _ => hevent⟩

/-! ### A busy block completes (R220) -/

/-- The engine's turn of a busy block over legal tries completes its command. -/
theorem busy_step_completes {s : State} {rest : List Event} (hinv : s.trieInv = true)
    (hbusy : s.busy = true) (hnext : s.engineNext rest) :
    ∃ s', step s = .next s' ∧ s'.busy = false ∧ s'.done = true := by
  obtain ⟨L, hlatch⟩ := s.busy_eq_true_iff.1 hbusy
  obtain ⟨s', hstep⟩ : ∃ s', step s = .next s' := by
    rw [step_of_engineNext hnext]
    exact engineTurn_progress (s := { s with inputs := rest }) hinv
  obtain ⟨_, _, _, _, rfl⟩ := step_completes hnext hlatch hstep
  exact ⟨_, hstep, rfl, rfl⟩

theorem run_succ_of_next {M : Host.Core} {s s' : M.State} (h : M.step s = .next s') (k : Nat) :
    M.run (k + 1) s = M.run k s' := by
  rw [Host.Core.run, h]

theorem run_succ {s s' : State} (h : step s = .next s') (k : Nat) :
    Host.Core.run core (k + 1) s = Host.Core.run core k s' :=
  run_succ_of_next (M := core) h k

theorem run_one {s s' : State} (h : step s = .next s') : Host.Core.run core 1 s = .next s' :=
  run_succ h 0

/-- A host access leaves a busy block busy. -/
theorem hostAccess_keeps_busy {a : Access} {s s' : State} (h : hostAccess a s = .next s')
    (hbusy : s.busy = true) : s'.busy = true := by
  obtain ⟨_, _, _, -, -, rfl⟩ | ⟨_, _, v, off, -, -, rfl⟩ := hostAccess_next h
  · exact hbusy
  · obtain ⟨L, hlatch⟩ := s.busy_eq_true_iff.1 hbusy
    exact (State.busy_eq_true_iff _).2 ⟨L, State.writeReg_latch_of_busy v _ hlatch⟩

/-- The bounded form of R220, by induction over the pending events: the engine's turn and a reset end the
wait, and a served access only shortens it. -/
theorem run_until_idle {s : State} (hinv : s.trieInv = true) (hbusy : s.busy = true)
    (hserved : s.inputs.all (eventServed s.cfg) = true) :
    ∃ k s', k ≤ s.inputs.length + 1 ∧ Host.Core.run core k s = .next s' ∧ s'.busy = false ∧
      (.reset ∉ s.inputs → s'.done = true) := by
  generalize hinputs : s.inputs = es at hserved
  induction es generalizing s with
  | nil =>
    obtain ⟨s', hstep, hidle, hdone⟩ := busy_step_completes hinv hbusy (.inl ⟨hinputs, rfl⟩)
    exact ⟨1, s', by simp, run_one hstep, hidle, fun _ => hdone⟩
  | cons e rest ih =>
    cases e with
    | engine =>
      obtain ⟨s', hstep, hidle, hdone⟩ := busy_step_completes hinv hbusy (.inr hinputs)
      exact ⟨1, s', by simp, run_one hstep, hidle, fun _ => hdone⟩
    | reset =>
      have hstep := resetInputRestoresResetState s rest hinputs
      exact ⟨1, _, by simp, run_one hstep, rfl, fun h => absurd List.mem_cons_self h⟩
    | access a =>
      rw [List.all_cons, Bool.and_eq_true] at hserved
      obtain ⟨hhead, htail⟩ := hserved
      obtain ⟨-, s₁, haccess⟩ | ⟨hrefused, -⟩ := hostAccess_cases a { s with inputs := rest }
      · have hsame := hostAccess_sameBlock haccess
        obtain ⟨k, s', hk, hrun, hidle, hdone⟩ := ih (s := s₁)
          (trieInv_of_tables (s := s) hsame.cfg hsame.tables hinv)
          (hostAccess_keeps_busy haccess hbusy) hsame.inputs (by rwa [hsame.cfg])
        refine ⟨k + 1, s', by simpa using hk, ?_, hidle, fun h => hdone fun hr => ?_⟩
        · rw [run_succ ((step_access hinputs).trans haccess), hrun]
        · exact h (List.mem_cons_of_mem _ hr)
      · cases hhead.symm.trans hrefused

/-- Settles O60: the engine's turn completes, and every other event brings it nearer or resets the block. -/
theorem busyBlockCompletes : Obligations.BusyBlockCompletes := by
  intro s hinv hbusy hserved
  have htrie : s.trieInv = true := by
    simp only [State.inv, Bool.and_eq_true] at hinv
    obtain ⟨⟨⟨-, htrie⟩, -⟩, -⟩ := hinv
    exact htrie
  exact ⟨fun rest => busy_step_completes htrie hbusy, run_until_idle htrie hbusy hserved⟩

end Sys2Proof.Machine
end
